-- ==== Sys2Proof/Word.lean ====
section
/-! DEFINITION. Sys2Proof/Word.lean: the word types of the CORE (spec/00_scope.md R7, R17). -/

namespace Sys2Proof

/-- A word: 32 bits, bit 0 the least significant (R7). -/
abbrev Word := BitVec 32

/-- A binary32 sample, coefficient, gain or residual, as its bit pattern (R9). -/
abbrev F32 := Word

/-- One byte of a raw device buffer (R73). -/
abbrev Byte := BitVec 8

/-- A complex sample (I, Q) (R17); also one input pair of the Hilbert unit (R220). -/
abbrev Cplx := F32 × F32

/-- An instance index, the header's `INST` field (R101). -/
abbrev Inst := BitVec 4

/-- A 64-bit timestamp, stored and forwarded and never interpreted (R45). -/
abbrev Stamp := BitVec 64

end Sys2Proof
end

