-- ==== Sys2Proof/Config.lean ====
section
/-! DEFINITION. Sys2Proof/Config.lean: what an implementation fixes (spec/00_scope.md R6) and the free values.
The sizes of R6 are plain data (`Params`, carried by `State.params`, so that every claim quantifies over them).
The functions the spec leaves to the implementation are opaque constants: nothing in Lean can evaluate them. -/

namespace Sys2Proof

/-- The twelve unit kinds (R102). -/
inductive Kind where
  | sys | firr | firc | hbr | hbc | hil | dcr | nco | mix | fmd | dbi | cop
  deriving DecidableEq, Repr

/-- `KIND` numbers (R102). -/
def Kind.code : Kind → BitVec 4
  | .sys => 0 | .firr => 1 | .firc => 2 | .hbr => 3 | .hbc => 4 | .hil => 5
  | .dcr => 6 | .nco => 7 | .mix => 8 | .fmd => 9 | .dbi => 10 | .cop => 11

/-- `ImplementationVariant` (R26, R146). -/
inductive Variant where
  | scalar | vector64 | vector128 | vector256 | vector512 | uncalibrated
  deriving DecidableEq, Repr

/-- Variant codes (R26). -/
def Variant.code : Variant → Nat
  | .scalar => 0 | .vector64 => 1 | .vector128 => 2 | .vector256 => 3 | .vector512 => 4 | .uncalibrated => 5

/-- The variant of a code; 6 and above are reserved (R26). -/
def Variant.ofCode : Nat → Option Variant
  | 0 => some .scalar | 1 => some .vector64 | 2 => some .vector128 | 3 => some .vector256
  | 4 => some .vector512 | 5 => some .uncalibrated | _ => none

/-- A queued block: its timestamp tag and its complex samples (R38, R303). -/
structure Block where
  ts   : Stamp
  data : List Cplx
  deriving DecidableEq, Repr

/-- A binary tree of additions over the terms of a list, a leaf naming a term by its index (R13). -/
inductive SumTree where
  | leaf (i : Nat)
  | node (l r : SumTree)
  deriving DecidableEq, Repr, Inhabited

/-- The operations whose NaN result has an unspecified sign and payload (R10, I10). -/
inductive FOp where
  | add | sub | mul | atan2
  deriving DecidableEq, Repr

/-- Which functions an instance computes with: any the implementation may have (the opaque constants below), or
the reference instantiations the spec's vectors use (R13, R14, R15). -/
inductive Numerics where
  | implementation | reference
  deriving DecidableEq, Repr

/-- The parameter predicate `BLOCK_FAULT` (R318): exactly the listed blocks, or whatever the implementation says.
`listed []` is the constant false, the default of R6. -/
inductive FaultRule where
  | listed (bs : List Block)
  | implementation
  deriving DecidableEq, Repr

/-- The implementation parameters of R6. -/
structure Params where
  nFirr : Nat
  nFirc : Nat
  nHbr  : Nat
  nHbc  : Nat
  nHil  : Nat
  nDcr  : Nat
  nNco  : Nat
  nMix  : Nat
  nFmd  : Nat
  nDbi  : Nat
  nCop  : Nat
  maxTaps      : Nat
  maxBlock     : Nat
  fragSize     : Nat
  sampleBits   : Nat
  maxRaw       : Nat
  maxQcap      : Nat
  hwMaxVariant : Nat
  ncoEps       : Rat
  atanEps      : Rat
  coreId       : Word
  blockFault   : FaultRule
  numerics     : Numerics
  deriving DecidableEq, Repr

/-- `N_INST[k]` (R6); the system unit counts as one instance. -/
def Params.nInst (p : Params) : Kind → Nat
  | .sys => 1 | .firr => p.nFirr | .firc => p.nFirc | .hbr => p.nHbr | .hbc => p.nHbc | .hil => p.nHil
  | .dcr => p.nDcr | .nco => p.nNco | .mix => p.nMix | .fmd => p.nFmd | .dbi => p.nDbi | .cop => p.nCop

/-- The default column of R6. -/
def Params.default : Params where
  nFirr := 4
  nFirc := 4
  nHbr := 16
  nHbc := 16
  nHil := 4
  nDcr := 4
  nNco := 4
  nMix := 4
  nFmd := 4
  nDbi := 4
  nCop := 4
  maxTaps := 255
  maxBlock := 65536
  fragSize := 2048
  sampleBits := 12
  maxRaw := 262144
  maxQcap := 1024
  hwMaxVariant := 4
  ncoEps := 1 / 20000
  atanEps := 1 / 20000
  coreId := 0x53445254#32
  blockFault := .listed []
  numerics := .implementation

/-- The constraint column of R6. `MAX_RAW` "multiple of 12" is left out, since the default of the same row does
not meet it and no rule uses it (log entry 2). -/
abbrev Params.Ok (p : Params) : Prop :=
  (∀ k ∈ [Kind.firr, .firc, .hbr, .hbc, .hil, .dcr, .nco, .mix, .fmd, .dbi, .cop], 1 ≤ p.nInst k ∧ p.nInst k ≤ 16) ∧
  (p.maxTaps % 2 = 1 ∧ 63 ≤ p.maxTaps) ∧
  (1 ≤ p.maxBlock ∧ p.maxBlock < 2 ^ 22) ∧
  (p.fragSize % 2 = 0 ∧ 2 ≤ p.fragSize ∧ p.fragSize ≤ p.maxBlock) ∧
  (2 ≤ p.sampleBits ∧ p.sampleBits ≤ 16) ∧
  p.maxRaw ≤ 2 ^ 22 - 4 ∧
  1 ≤ p.maxQcap ∧
  p.hwMaxVariant ≤ 4 ∧
  (0 < p.ncoEps ∧ p.ncoEps ≤ 1 / 20000) ∧
  (0 < p.atanEps ∧ p.atanEps ≤ 1 / 20000)

/-- Free value: sign (bit 22) and payload (bits 21 to 0) of the quiet NaN that an operation gives on these operands
(R10, I10; log entry 1). -/
opaque Config.nanBits : FOp → Word → Word → BitVec 23

/-- Free value: the tree a vector sum of this lane count adds the terms in (R13; log entry 3). Used only where it
is a tree over exactly the terms. -/
opaque Config.sumPlan : Nat → List Word → SumTree

/-- Free value: the implementation's cosine at a phase (R14; log entry 4). Used only within the rule's bounds. -/
opaque Config.ncoCosRaw : Word → Word

/-- Free value: the implementation's sine at a phase (R14; log entry 4). Used only within the rule's bounds. -/
opaque Config.ncoSinRaw : Word → Word

/-- Free value: the implementation's arctangent of `y` and `x` (R15; log entry 5). Used only within the rule's
bounds; of the reference function it decides the sign of the one zero R15 leaves open. -/
opaque Config.atan2Raw : Word → Word → Word

/-- Free value: the implementation's `BLOCK_FAULT` predicate (R318; log entry 6). -/
opaque Config.blockFaultRaw : Block → Bool

/-- Free value: the count word of a drain's response for a number of output blocks that 32 bits do not hold (R312; log
entry 22). -/
opaque Config.countPast32 : Nat → Word

/-- Free value: which of several agents with a pending step moves next, at the n-th such choice (R86, I15; log
entry 7). -/
opaque Config.pick : Nat → Nat

end Sys2Proof
end

