-- ==== Sys2Proof/Syntax.lean ====
section
/-! DEFINITION. Sys2Proof/Syntax.lean: command packets and the 38 commands of CORE command set 1.0
(spec/30_encoding.md R100 to R107). -/

namespace Sys2Proof

/-- A command packet on `CMD`: a header word, then the words up to the port's end mark (R72, R100). -/
structure Packet where
  header : Word
  body   : List Word
  deriving DecidableEq, Repr

/-- The commands (R103), one constructor per row of spec/opcode_table.json. Block lengths (`L`, `N`, `LEN`) are the
lengths of the payload lists; complex payloads are lists of (I, Q) samples (R17). -/
inductive Instr where
  | sysNop
  | sysRdreg (i : Inst) (rkind : BitVec 4) (regno : BitVec 8)
  | sysWrreg (i : Inst) (rkind : BitVec 4) (regno : BitVec 8) (value : Word)
  | sysReset
  | firrLoad (i : Inst) (d : BitVec 10) (c : List F32)
  | firrProc (i : Inst) (x : List F32)
  | firrClr (i : Inst)
  | fircLoad (i : Inst) (d : BitVec 10) (c : List F32)
  | fircProc (i : Inst) (x : List Cplx)
  | fircClr (i : Inst)
  | hbrLoad (i : Inst) (c : List F32)
  | hbrProc (i : Inst) (x : List F32)
  | hbrClr (i : Inst)
  | hbcLoad (i : Inst) (c : List F32)
  | hbcProc (i : Inst) (x : List Cplx)
  | hbcClr (i : Inst)
  | hilLoad (i : Inst) (c : List F32)
  | hilProc (i : Inst) (r : List Cplx)
  | hilClr (i : Inst)
  | dcrLoad (i : Inst) (alpha : F32)
  | dcrProc (i : Inst) (x : List F32)
  | dcrClr (i : Inst)
  | ncoLoad (i : Inst) (inc : Word)
  | ncoGen (i : Inst) (n : BitVec 22)
  | ncoClr (i : Inst)
  | mixLoad (i : Inst)
  | mixProc (i : Inst) (x : List Cplx)
  | fmdLoad (i : Inst)
  | fmdProc (i : Inst) (x : List Cplx)
  | fmdClr (i : Inst)
  | dbiOpen (i : Inst) (rawlen : BitVec 22) (flags tsLo tsHi : Word) (residI residQ : List F32) (raw : List Word)
  | dbiNext (i : Inst)
  | dbiClr (i : Inst)
  | dbiResid (i : Inst)
  | copOpen (i : Inst) (capacity recovery outblk : Word)
  | copSubmit (i : Inst) (tsLo tsHi : Word) (x : List Cplx)
  | copDrain (i : Inst) (maxItems : BitVec 22)
  | copDetach (i : Inst)
  deriving DecidableEq, Repr

end Sys2Proof
end

