-- ==== Sys2Proof/Decode.lean ====
section
/-! DEFINITION. Sys2Proof/Decode.lean: header fields, the decoder (total on every packet), the encoder and the
opcode table (spec/30_encoding.md R100 to R110). -/

namespace Sys2Proof

/-! Fields of the header and of `FLAGS`. -/

/-- The opcode: the 6-bit pair (`KIND`, `FUNC`) (R101). -/
def opcodeOf (h : Word) : BitVec 6 := h.extractLsb' 26 6

/-- `KIND`, bits [31:28] (R101). -/
def kindOf (h : Word) : BitVec 4 := h.extractLsb' 28 4

/-- `FUNC`, bits [27:26] (R101). -/
def funcOf (h : Word) : BitVec 2 := h.extractLsb' 26 2

/-- `INST`, bits [25:22] (R101). -/
def instOf (h : Word) : Inst := h.extractLsb' 22 4

/-- `IMM`, bits [21:0] (R101). -/
def immOf (h : Word) : BitVec 22 := h.extractLsb' 0 22

/-- `L`, bits [11:0] of a filter `LOAD` (R104). -/
def lenOf (h : Word) : BitVec 12 := h.extractLsb' 0 12

/-- `D`, bits [21:12] of a generic FIR `LOAD` (R104). -/
def decimOf (h : Word) : BitVec 10 := h.extractLsb' 12 10

/-- `REGNO`, bits [7:0] of `RDREG` and `WRREG` (R104). -/
def regnoOf (h : Word) : BitVec 8 := h.extractLsb' 0 8

/-- `RKIND`, bits [11:8] of `RDREG` and `WRREG` (R104). -/
def rkindOf (h : Word) : BitVec 4 := h.extractLsb' 8 4

/-- `FLAGS[15:8]`, the announced length of the I-rail residual (R105). -/
def flagsLenI (flags : Word) : Nat := (flags.extractLsb' 8 8).toNat

/-- `FLAGS[23:16]`, the announced length of the Q-rail residual (R105). -/
def flagsLenQ (flags : Word) : Nat := (flags.extractLsb' 16 8).toNat

/-- Words that hold `n` raw bytes: ceil(n / 4) (R73). -/
def rawWords (n : Nat) : Nat := (n + 3) / 4

/-! Complex payloads travel interleaved (R17). -/

/-- The samples of an interleaved payload: words 2n and 2n+1 are I and Q of sample n. -/
def pairs {α : Type} : List α → List (α × α)
  | a :: b :: t => (a, b) :: pairs t
  | _ => []

/-- `interleave`: the words of complex samples in port order (R17). -/
def interleave {α : Type} : List (α × α) → List α
  | [] => []
  | (a, b) :: t => a :: b :: interleave t

/-! Decoding. -/

/-- Why a packet is no command: its header is illegal (R108), or its word count is not the one its header and
operands fix (R72). -/
inductive Reject where
  | illegalHeader (h : Word)
  | wrongCount (h : Word)
  deriving DecidableEq, Repr

/-- The packet's command, if its must-be-zero bits are zero and `n` words follow the header; the header check
comes first (R140). -/
def Packet.sized (p : Packet) (legal : Bool) (n : Nat) (i : Instr) : Except Reject Instr :=
  if legal then
    if p.body.length = n then .ok i else .error (.wrongCount p.header)
  else .error (.illegalHeader p.header)

/-- Decoding of a packet, over the opcode map of R103, the immediates of R104, the operand words of R105 and the
payload sizes of R107. An opcode with a dash in R103 or of kinds 12 to 15 is illegal (R108). -/
def decode (p : Packet) : Except Reject Instr :=
  let h := p.header
  let b := p.body
  let i := instOf h
  let n := (immOf h).toNat
  let l := (lenOf h).toNat
  let noImm : Bool := immOf h = 0#22
  let shortImm : Bool := decimOf h = 0#10
  match (opcodeOf h).toNat with
  | 0 => p.sized (h = 0#32) 0 .sysNop
  | 1 => p.sized shortImm 0 (.sysRdreg i (rkindOf h) (regnoOf h))
  | 2 => p.sized shortImm 1 (.sysWrreg i (rkindOf h) (regnoOf h) (b.getD 0 0))
  | 3 => p.sized (i = 0#4 && noImm) 0 .sysReset
  | 4 => p.sized true l (.firrLoad i (decimOf h) b)
  | 5 => p.sized true n (.firrProc i b)
  | 6 => p.sized noImm 0 (.firrClr i)
  | 8 => p.sized true l (.fircLoad i (decimOf h) b)
  | 9 => p.sized true (2 * n) (.fircProc i (pairs b))
  | 10 => p.sized noImm 0 (.fircClr i)
  | 12 => p.sized shortImm l (.hbrLoad i b)
  | 13 => p.sized true n (.hbrProc i b)
  | 14 => p.sized noImm 0 (.hbrClr i)
  | 16 => p.sized shortImm l (.hbcLoad i b)
  | 17 => p.sized true (2 * n) (.hbcProc i (pairs b))
  | 18 => p.sized noImm 0 (.hbcClr i)
  | 20 => p.sized shortImm l (.hilLoad i b)
  | 21 => p.sized true (2 * n) (.hilProc i (pairs b))
  | 22 => p.sized noImm 0 (.hilClr i)
  | 24 => p.sized noImm 1 (.dcrLoad i (b.getD 0 0))
  | 25 => p.sized true n (.dcrProc i b)
  | 26 => p.sized noImm 0 (.dcrClr i)
  | 28 => p.sized noImm 1 (.ncoLoad i (b.getD 0 0))
  | 29 => p.sized true 0 (.ncoGen i (immOf h))
  | 30 => p.sized noImm 0 (.ncoClr i)
  | 32 => p.sized noImm 0 (.mixLoad i)
  | 33 => p.sized true (2 * n) (.mixProc i (pairs b))
  | 36 => p.sized noImm 0 (.fmdLoad i)
  | 37 => p.sized true (2 * n) (.fmdProc i (pairs b))
  | 38 => p.sized noImm 0 (.fmdClr i)
  | 40 =>
    let flags := b.getD 0 0
    let li := flagsLenI flags
    let lq := flagsLenQ flags
    let rest := b.drop 3
    p.sized true (3 + li + lq + rawWords n)
      (.dbiOpen i (immOf h) flags (b.getD 1 0) (b.getD 2 0) (rest.take li) ((rest.drop li).take lq)
        (rest.drop (li + lq)))
  | 41 => p.sized noImm 0 (.dbiNext i)
  | 42 => p.sized noImm 0 (.dbiClr i)
  | 43 => p.sized noImm 0 (.dbiResid i)
  | 44 => p.sized noImm 3 (.copOpen i (b.getD 0 0) (b.getD 1 0) (b.getD 2 0))
  | 45 => p.sized true (2 + 2 * n) (.copSubmit i (b.getD 0 0) (b.getD 1 0) (pairs (b.drop 2)))
  | 46 => p.sized true 0 (.copDrain i (immOf h))
  | 47 => p.sized noImm 0 (.copDetach i)
  | _ => .error (.illegalHeader h)

/-! Encoding. -/

/-- A header from its opcode, instance and immediate (R101). -/
def mkHeader (op : BitVec 6) (i : Inst) (imm : BitVec 22) : Word := op ++ i ++ imm

/-- `IMM` with a decimation factor and a tap count (R104). -/
def immTaps (d : BitVec 10) (l : Nat) : BitVec 22 := d ++ BitVec.ofNat 12 l

/-- `IMM` of a register access (R104). -/
def immReg (rkind : BitVec 4) (regno : BitVec 8) : BitVec 22 := 0#10 ++ rkind ++ regno

/-- `IMM` with a block length (R104). -/
def immLen (n : Nat) : BitVec 22 := BitVec.ofNat 22 n

/-- The packet of a command, from the same tables (R103 to R107). -/
def encode : Instr → Packet
  | .sysNop => ⟨mkHeader 0 0 0, []⟩
  | .sysRdreg i rk rn => ⟨mkHeader 1 i (immReg rk rn), []⟩
  | .sysWrreg i rk rn v => ⟨mkHeader 2 i (immReg rk rn), [v]⟩
  | .sysReset => ⟨mkHeader 3 0 0, []⟩
  | .firrLoad i d c => ⟨mkHeader 4 i (immTaps d c.length), c⟩
  | .firrProc i x => ⟨mkHeader 5 i (immLen x.length), x⟩
  | .firrClr i => ⟨mkHeader 6 i 0, []⟩
  | .fircLoad i d c => ⟨mkHeader 8 i (immTaps d c.length), c⟩
  | .fircProc i x => ⟨mkHeader 9 i (immLen x.length), interleave x⟩
  | .fircClr i => ⟨mkHeader 10 i 0, []⟩
  | .hbrLoad i c => ⟨mkHeader 12 i (immTaps 0 c.length), c⟩
  | .hbrProc i x => ⟨mkHeader 13 i (immLen x.length), x⟩
  | .hbrClr i => ⟨mkHeader 14 i 0, []⟩
  | .hbcLoad i c => ⟨mkHeader 16 i (immTaps 0 c.length), c⟩
  | .hbcProc i x => ⟨mkHeader 17 i (immLen x.length), interleave x⟩
  | .hbcClr i => ⟨mkHeader 18 i 0, []⟩
  | .hilLoad i c => ⟨mkHeader 20 i (immTaps 0 c.length), c⟩
  | .hilProc i r => ⟨mkHeader 21 i (immLen r.length), interleave r⟩
  | .hilClr i => ⟨mkHeader 22 i 0, []⟩
  | .dcrLoad i a => ⟨mkHeader 24 i 0, [a]⟩
  | .dcrProc i x => ⟨mkHeader 25 i (immLen x.length), x⟩
  | .dcrClr i => ⟨mkHeader 26 i 0, []⟩
  | .ncoLoad i inc => ⟨mkHeader 28 i 0, [inc]⟩
  | .ncoGen i n => ⟨mkHeader 29 i n, []⟩
  | .ncoClr i => ⟨mkHeader 30 i 0, []⟩
  | .mixLoad i => ⟨mkHeader 32 i 0, []⟩
  | .mixProc i x => ⟨mkHeader 33 i (immLen x.length), interleave x⟩
  | .fmdLoad i => ⟨mkHeader 36 i 0, []⟩
  | .fmdProc i x => ⟨mkHeader 37 i (immLen x.length), interleave x⟩
  | .fmdClr i => ⟨mkHeader 38 i 0, []⟩
  | .dbiOpen i n flags lo hi ri rq raw => ⟨mkHeader 40 i n, flags :: lo :: hi :: (ri ++ rq ++ raw)⟩
  | .dbiNext i => ⟨mkHeader 41 i 0, []⟩
  | .dbiClr i => ⟨mkHeader 42 i 0, []⟩
  | .dbiResid i => ⟨mkHeader 43 i 0, []⟩
  | .copOpen i cap rec out => ⟨mkHeader 44 i 0, [cap, rec, out]⟩
  | .copSubmit i lo hi x => ⟨mkHeader 45 i (immLen x.length), lo :: hi :: interleave x⟩
  | .copDrain i m => ⟨mkHeader 46 i m, []⟩
  | .copDetach i => ⟨mkHeader 47 i 0, []⟩

/-! The opcode table. -/

/-- A row of spec/opcode_table.json: a header h selects it when h AND `mask` = `value`. -/
structure OpRow where
  mnemonic : String
  value    : Word
  mask     : Word
  deriving DecidableEq, Repr

/-- The header selects the row. -/
def OpRow.selects (r : OpRow) (h : Word) : Bool := h &&& r.mask = r.value

/-- Rows of the `SYS`, FIR and half-band commands. -/
def opRowsA : List OpRow :=
  [⟨"SYS.NOP", 0x00000000, 0xFFFFFFFF⟩, ⟨"SYS.RDREG", 0x04000000, 0xFC3FF000⟩,
   ⟨"SYS.WRREG", 0x08000000, 0xFC3FF000⟩, ⟨"SYS.RESET", 0x0C000000, 0xFFFFFFFF⟩,
   ⟨"FIRR.LOAD", 0x10000000, 0xFC000000⟩, ⟨"FIRR.PROC", 0x14000000, 0xFC000000⟩,
   ⟨"FIRR.CLR", 0x18000000, 0xFC3FFFFF⟩, ⟨"FIRC.LOAD", 0x20000000, 0xFC000000⟩,
   ⟨"FIRC.PROC", 0x24000000, 0xFC000000⟩, ⟨"FIRC.CLR", 0x28000000, 0xFC3FFFFF⟩,
   ⟨"HBR.LOAD", 0x30000000, 0xFC3FF000⟩, ⟨"HBR.PROC", 0x34000000, 0xFC000000⟩,
   ⟨"HBR.CLR", 0x38000000, 0xFC3FFFFF⟩, ⟨"HBC.LOAD", 0x40000000, 0xFC3FF000⟩,
   ⟨"HBC.PROC", 0x44000000, 0xFC000000⟩, ⟨"HBC.CLR", 0x48000000, 0xFC3FFFFF⟩]

/-- Rows of the Hilbert, DC removal, oscillator, mixer and demodulator commands. -/
def opRowsB : List OpRow :=
  [⟨"HIL.LOAD", 0x50000000, 0xFC3FF000⟩, ⟨"HIL.PROC", 0x54000000, 0xFC000000⟩,
   ⟨"HIL.CLR", 0x58000000, 0xFC3FFFFF⟩, ⟨"DCR.LOAD", 0x60000000, 0xFC3FFFFF⟩,
   ⟨"DCR.PROC", 0x64000000, 0xFC000000⟩, ⟨"DCR.CLR", 0x68000000, 0xFC3FFFFF⟩,
   ⟨"NCO.LOAD", 0x70000000, 0xFC3FFFFF⟩, ⟨"NCO.GEN", 0x74000000, 0xFC000000⟩,
   ⟨"NCO.CLR", 0x78000000, 0xFC3FFFFF⟩, ⟨"MIX.LOAD", 0x80000000, 0xFC3FFFFF⟩,
   ⟨"MIX.PROC", 0x84000000, 0xFC000000⟩, ⟨"FMD.LOAD", 0x90000000, 0xFC3FFFFF⟩,
   ⟨"FMD.PROC", 0x94000000, 0xFC000000⟩, ⟨"FMD.CLR", 0x98000000, 0xFC3FFFFF⟩]

/-- Rows of the iterator and channel commands. -/
def opRowsC : List OpRow :=
  [⟨"DBI.OPEN", 0xA0000000, 0xFC000000⟩, ⟨"DBI.NEXT", 0xA4000000, 0xFC3FFFFF⟩,
   ⟨"DBI.CLR", 0xA8000000, 0xFC3FFFFF⟩, ⟨"DBI.RESID", 0xAC000000, 0xFC3FFFFF⟩,
   ⟨"COP.OPEN", 0xB0000000, 0xFC3FFFFF⟩, ⟨"COP.SUBMIT", 0xB4000000, 0xFC000000⟩,
   ⟨"COP.DRAIN", 0xB8000000, 0xFC000000⟩, ⟨"COP.DETACH", 0xBC000000, 0xFC3FFFFF⟩]

/-- The 38 rows of spec/opcode_table.json. -/
def opRows : List OpRow := opRowsA ++ opRowsB ++ opRowsC

/-- The row of a command, by its mnemonic in the table. -/
def Instr.mnemonic : Instr → String
  | .sysNop => "SYS.NOP" | .sysRdreg .. => "SYS.RDREG" | .sysWrreg .. => "SYS.WRREG" | .sysReset => "SYS.RESET"
  | .firrLoad .. => "FIRR.LOAD" | .firrProc .. => "FIRR.PROC" | .firrClr _ => "FIRR.CLR"
  | .fircLoad .. => "FIRC.LOAD" | .fircProc .. => "FIRC.PROC" | .fircClr _ => "FIRC.CLR"
  | .hbrLoad .. => "HBR.LOAD" | .hbrProc .. => "HBR.PROC" | .hbrClr _ => "HBR.CLR"
  | .hbcLoad .. => "HBC.LOAD" | .hbcProc .. => "HBC.PROC" | .hbcClr _ => "HBC.CLR"
  | .hilLoad .. => "HIL.LOAD" | .hilProc .. => "HIL.PROC" | .hilClr _ => "HIL.CLR"
  | .dcrLoad .. => "DCR.LOAD" | .dcrProc .. => "DCR.PROC" | .dcrClr _ => "DCR.CLR"
  | .ncoLoad .. => "NCO.LOAD" | .ncoGen .. => "NCO.GEN" | .ncoClr _ => "NCO.CLR"
  | .mixLoad _ => "MIX.LOAD" | .mixProc .. => "MIX.PROC"
  | .fmdLoad _ => "FMD.LOAD" | .fmdProc .. => "FMD.PROC" | .fmdClr _ => "FMD.CLR"
  | .dbiOpen .. => "DBI.OPEN" | .dbiNext _ => "DBI.NEXT" | .dbiClr _ => "DBI.CLR" | .dbiResid _ => "DBI.RESID"
  | .copOpen .. => "COP.OPEN" | .copSubmit .. => "COP.SUBMIT" | .copDrain .. => "COP.DRAIN"
  | .copDetach _ => "COP.DETACH"

/-! The host's numbering of an instruction's bits. -/

/-- Word `k` of an instruction given as a number: bit 0 is the least significant bit of the first word, every bit
from `nbits` on is zero. -/
def tableWord (nbits w k : Nat) : Word :=
  if nbits ≤ 32 * k then 0 else BitVec.ofNat 32 (w % 2 ^ nbits / 2 ^ (32 * k))

/-- Words after the header that a header and a first body word call for (R105, R107, R110). -/
def bodyWords (h first : Word) : Nat :=
  let n := (immOf h).toNat
  let l := (lenOf h).toNat
  match (opcodeOf h).toNat with
  | 2 | 24 | 28 => 1
  | 44 => 3
  | 4 | 8 | 12 | 16 | 20 => l
  | 5 | 13 | 25 => n
  | 9 | 17 | 21 | 33 | 37 => 2 * n
  | 40 => 3 + flagsLenI first + flagsLenQ first + rawWords n
  | 45 => 2 + 2 * n
  | _ => 0

/-- The packet of an instruction given as a number: every bit above `nbits` is zero, up to the packet's length. -/
def tablePacket (nbits w : Nat) : Packet :=
  let h := tableWord nbits w 0
  ⟨h, (List.range (bodyWords h (tableWord nbits w 1))).map fun k => tableWord nbits w (k + 1)⟩

/-- The instruction the decoder reads from an instruction numbered as spec/opcode_table.json numbers it. -/
def decodeTableWord (nbits w : Nat) : Option Instr :=
  match decode (tablePacket nbits w) with
  | .ok i => some i
  | .error _ => none

end Sys2Proof
end

