-- ==== Sys2Proof/Machine/Float.lean ====
section
/-! DEFINITION. Sys2Proof/Machine/Float.lean: binary32 arithmetic on bit patterns (spec/00_scope.md R9 to R11). A
finite value is an integer number of units of 2^-149; results are computed exactly and rounded once. -/

namespace Sys2Proof.Machine

/-- A binary32 value: a NaN, an infinity, or plus or minus `m` units of 2^-149. -/
inductive Fp where
  | nan
  | inf (neg : Bool)
  | fin (neg : Bool) (m : Nat)
  deriving DecidableEq, Repr

/-- The exponent field, bits [30:23]. -/
def expField (w : F32) : Nat := w.toNat / 2 ^ 23 % 256

/-- The fraction field, bits [22:0]. -/
def fracField (w : F32) : Nat := w.toNat % 2 ^ 23

/-- The sign bit, bit 31. -/
def signBit (w : F32) : Bool := 2 ^ 31 ≤ w.toNat

/-- 2^`d`, as three factors: each exponent stays within what Lean's evaluator folds. -/
def pow2 (d : Nat) : Nat := 2 ^ (d / 3) * 2 ^ ((d + 1) / 3) * 2 ^ ((d + 2) / 3)

/-- The value of a bit pattern; subnormals are kept (R9). -/
def unpack (w : F32) : Fp :=
  if expField w = 255 then
    if fracField w = 0 then .inf (signBit w) else .nan
  else if expField w = 0 then .fin (signBit w) (fracField w)
  else .fin (signBit w) ((2 ^ 23 + fracField w) * pow2 (expField w - 1))

/-- `m` divided by 2^`d`, rounded to nearest, ties to even. -/
def roundEven (m d : Nat) : Nat :=
  let q := m / pow2 d
  let r := m % pow2 d
  if pow2 d < 2 * r ∨ (2 * r = pow2 d ∧ q % 2 = 1) then q + 1 else q

/-- Bits [30:0] of the binary32 nearest to `m` times 2^-`k` units, ties to even (R9). With `q` the exponent of the
last place kept, the fields are the one number q * 2^23 + significand, whose carries do what the format asks; past
the largest finite value it is infinity. -/
def roundMag (m k : Nat) : Nat :=
  let q := m.log2 + 1 - (24 + k)
  min (q * 2 ^ 23 + roundEven m (k + q)) 0x7F800000

/-- A sign and bits [30:0] as a bit pattern. -/
def signed (neg : Bool) (mag : Nat) : F32 := BitVec.ofNat 32 ((if neg then 2 ^ 31 else 0) + mag)

/-- A quiet NaN with the given sign (bit 22) and payload (bits 21 to 0). -/
def quietNaN (b : BitVec 23) : F32 :=
  signed (2 ^ 22 ≤ b.toNat) (0x7FC00000 + b.toNat % 2 ^ 22)

/-- The NaN an operation gives on these operands: some quiet NaN (R10, I10; log entry 1). -/
def nanOf (op : FOp) (a b : F32) : F32 := quietNaN (Config.nanBits op a b)

/-- The bit pattern is a NaN. -/
def isNaN (a : F32) : Bool := expField a = 255 && fracField a ≠ 0

/-- The bit pattern is neither an infinity nor a NaN. -/
def isFinite (a : F32) : Bool := expField a ≠ 255

/-- `is_zero`: +0.0 and -0.0 only (R11). -/
def isZero (a : F32) : Bool := a.toNat % 2 ^ 31 = 0

/-- `is_half`: the bit pattern 0x3F000000 (R11). -/
def isHalf (a : F32) : Bool := a = 0x3F000000#32

/-- `a == b`: IEEE equality; the zeros are equal, a NaN equals nothing (R11). -/
def feq (a b : F32) : Bool := !isNaN a && !isNaN b && (a = b || (isZero a && isZero b))

/-- `fneg`: flips the sign bit (R9). -/
def fneg (a : F32) : F32 := a ^^^ 0x80000000#32

/-- A finite value as an integer number of units of 2^-149; 0 for the others. -/
def units (a : F32) : Int :=
  match unpack a with
  | .fin neg m => if neg then -(m : Int) else m
  | _ => 0

/-- `fadd` (R9): the exact sum rounded once; an exact zero sum is +0.0 unless both operands are -0.0. -/
def fadd (a b : F32) : F32 :=
  match unpack a, unpack b with
  | .nan, _ => nanOf .add a b
  | _, .nan => nanOf .add a b
  | .inf s, .inf t => if s = t then signed s 0x7F800000 else nanOf .add a b
  | .inf s, .fin _ _ => signed s 0x7F800000
  | .fin _ _, .inf t => signed t 0x7F800000
  | .fin s _, .fin t _ =>
    let z := units a + units b
    if z = 0 then signed (s && t) 0 else signed (z < 0) (roundMag z.natAbs 0)

/-- `fsub` (R9): the exact difference rounded once, which is the sum with the negated operand. Where the result is a NaN
(an operand is one, or both are infinities of one sign) its bits are drawn for `.sub` and these two operands, apart from
those of any `fadd` (DESIGN CHOICE; R10 leaves them open; log entry 1). -/
def fsub (a b : F32) : F32 :=
  if isNaN a || isNaN b || (!isFinite a && !isFinite b && signBit a = signBit b) then nanOf .sub a b
  else fadd a (fneg b)

/-- `fmul` (R9): the exact product rounded once; zero times infinity is a NaN. -/
def fmul (a b : F32) : F32 :=
  match unpack a, unpack b with
  | .nan, _ => nanOf .mul a b
  | _, .nan => nanOf .mul a b
  | .inf s, .inf t => signed (s != t) 0x7F800000
  | .inf s, .fin t n => if n = 0 then nanOf .mul a b else signed (s != t) 0x7F800000
  | .fin s m, .inf t => if m = 0 then nanOf .mul a b else signed (s != t) 0x7F800000
  | .fin s m, .fin t n => signed (s != t) (roundMag (m * n) 149)

/-- `i2f`: the binary32 of an integer, exact for magnitudes up to 2^24 (R11). -/
def i2f (n : Int) : F32 := signed (n < 0) (roundMag (n.natAbs * 2 ^ 149) 0)

/-- `f32const(2^-e)` for 0 ≤ e ≤ 126 (R11). -/
def pow2neg (e : Nat) : F32 := BitVec.ofNat 32 ((127 - e) * 2 ^ 23)

/-- The constant +0.0 (R11). -/
def fzero : F32 := 0x00000000#32

/-- The constant 1.0 (R11). -/
def fone : F32 := 0x3F800000#32

/-- The constant -1.0. -/
def fnegOne : F32 := 0xBF800000#32

/-! Sums (R12, R13). -/

/-- `ssum`: left to right (R12). The rules never sum an empty list; its value here is +0.0. -/
def ssum : List F32 → F32
  | [] => fzero
  | t :: ts => ts.foldl fadd t

/-- The term indices at a tree's leaves, left to right. -/
def treeLeaves : SumTree → List Nat
  | .leaf i => [i]
  | .node l r => treeLeaves l ++ treeLeaves r

/-- The value of a tree of additions over the terms. -/
def treeEval (ts : List F32) : SumTree → F32
  | .leaf i => ts.getD i fzero
  | .node l r => fadd (treeEval ts l) (treeEval ts r)

/-- The left-to-right tree over subtrees. -/
def chainTree : List SumTree → SumTree
  | [] => .leaf 0
  | t :: ts => ts.foldl SumTree.node t

/-- The reference tree of R13 for `w` lanes and `n` terms: lane j adds terms j, j + w, j + 2w, ...; the lane values
are added in lane order. -/
def stridedTree (w n : Nat) : SumTree :=
  chainTree ((List.range (min w n)).map fun j =>
    chainTree (((List.range n).filter fun i => i % w = j).map SumTree.leaf))

/-- The tree `vsum_W` adds in (R13): the implementation's, where it has each term exactly once, else the reference
tree (log entry 3). -/
def sumTree (num : Numerics) (w : Nat) (ts : List F32) : SumTree :=
  match num with
  | .reference => stridedTree w ts.length
  | .implementation =>
    if (treeLeaves (Config.sumPlan w ts)).Perm (List.range ts.length) then Config.sumPlan w ts
    else stridedTree w ts.length

/-- `vsum_W` (R13). -/
def vsum (num : Numerics) (w : Nat) (ts : List F32) : F32 := treeEval ts (sumTree num w ts)

/-- `lanes(v)` (R16). -/
def lanes : Variant → Nat
  | .scalar => 1 | .vector64 => 2 | .vector128 => 4 | .vector256 => 8 | .vector512 => 16 | .uncalibrated => 1

/-- `sum_v`: `ssum` for Scalar, `vsum_W` for a vector variant (R12, R13). -/
def sumBy (num : Numerics) (v : Variant) (ts : List F32) : F32 :=
  match v with
  | .scalar | .uncalibrated => ssum ts
  | _ => vsum num (lanes v) ts

end Sys2Proof.Machine
end

