-- ==== Sys2Proof/Machine/State.lean ====
section
/-! DEFINITION. Sys2Proof/Machine/State.lean: the state of the CORE as plain data (spec/10_state.md R20 to R45), the
reasons a step can stop, and the state after reset (R42, R440). A register whose value is the length of an array
(`NTAPS`, `OVERLAP`, `RAWLEN`, `OCC`, `FILL`) is not stored beside that array (log entry 12). -/

namespace Sys2Proof.Machine

/-- Sixteen slots, one per value of the `INST` field; slots at or past `N_INST` are never reached (R6, R101). -/
abbrev Bank (α : Type) := Vector α 16

/-- The instance in slot `i`. -/
def Bank.at {α : Type} (b : Bank α) (i : Inst) : α := b[i.toNat]'i.isLt

/-- The bank with slot `i` replaced. -/
def Bank.put {α : Type} (b : Bank α) (i : Inst) (u : α) : Bank α := b.set i.toNat u i.isLt

/-- Sixteen equal slots. -/
def Bank.fill {α : Type} (u : α) : Bank α := Vector.replicate 16 u

/-- `FIRR[i]` (samples are words) and `FIRC[i]` (samples are complex) (R30). `L` is the length of `coef`. -/
structure Fir (σ : Type) where
  constructed : Bool
  ivar  : Variant
  decim : BitVec 10
  coef  : List F32
  resid : List σ
  deriving DecidableEq, Repr

/-- `HBR[i]` and `HBC[i]` (R31). `L` is the length of `coef`. -/
structure Hb (σ : Type) where
  constructed : Bool
  ivar  : Variant
  coef  : List F32
  resid : List σ
  deriving DecidableEq, Repr

/-- `HIL[i]` (R32). -/
structure Hil where
  constructed : Bool
  ivar   : Variant
  par    : Bool
  coef   : List F32
  residI : List F32
  residQ : List F32
  deriving DecidableEq, Repr

/-- `DCR[i]` (R33). -/
structure Dcr where
  constructed : Bool
  ivar  : Variant
  alpha : F32
  avg   : F32
  deriving DecidableEq, Repr

/-- `NCO[i]` (R34). -/
structure Nco where
  constructed : Bool
  ivar  : Variant
  inc   : Word
  phase : Word
  deriving DecidableEq, Repr

/-- `MIX[i]` (R35). -/
structure Mix where
  constructed : Bool
  ivar : Variant
  deriving DecidableEq, Repr

/-- `FMD[i]` (R36). -/
structure Fmd where
  constructed : Bool
  ivar  : Variant
  prevI : F32
  prevQ : F32
  deriving DecidableEq, Repr

/-- `DBI[i]` (R37). `RAWLEN` is the length of `raw`. -/
structure Dbi where
  isOpen : Bool
  mode   : Bool
  packed : Bool
  dcen   : Bool
  ts     : Stamp
  raw    : List Byte
  nfrag  : Nat
  pos    : Nat
  residI : List F32
  residQ : List F32
  deriving DecidableEq, Repr

/-- `COP[c]` (R38) with `INFLIGHT[c]` (R40(b)): the blocks between the two phases of a drain, `none` when no drain is
in progress. `OCC` is the length of `queue` and `FILL` that of `asm`. -/
structure Cop where
  opened   : Bool
  capacity : Word
  recovery : Word
  outblk   : Word
  queue    : List Block
  ovf      : Bool
  drops    : Word
  blkerr   : Word
  gain     : F32
  finc     : Word
  fphase   : Word
  asm      : List Cplx
  asmTs    : Stamp
  inflight : Option (List Block)
  deriving DecidableEq, Repr

/-- The writable `SYS` registers (R25 to R28); slot k - 1 of `variant` is `VARIANT[k]`. -/
structure Sys where
  errflags : Word
  lasterr  : Word
  variant  : Vector Variant 9
  deriving DecidableEq, Repr

/-- The state of the CORE (R20), its three ports (R71) and the model's own fields `params` (R6) and `picks`. -/
structure State where
  params : Params
  sys    : Sys
  firr   : Bank (Fir F32)
  firc   : Bank (Fir Cplx)
  hbr    : Bank (Hb F32)
  hbc    : Bank (Hb Cplx)
  hil    : Bank Hil
  dcr    : Bank Dcr
  nco    : Bank Nco
  mix    : Bank Mix
  fmd    : Bank Fmd
  dbi    : Bank Dbi
  cop    : Bank Cop
  /-- Packets sent on `CMD` and not yet executed, oldest first (R71, R85). -/
  cmd    : List Packet
  /-- Response packets emitted so far on `RSP`, oldest first (R71). -/
  rsp    : List (List Word)
  /-- Notification words emitted so far on `NOTIF`, in step order (R40(c), R410, R416); of words of different channels
  that order is the model's (R412, I14; log entry 18). -/
  notif  : List Word
  /-- The model's own counter: how often the free arbiter `Config.pick` has been asked (log entry 7). -/
  picks  : Nat
  deriving DecidableEq, Repr

/-- Faults. There is none: every packet is answered, nothing traps, hangs or is undefined (R5(5), R92, R420), so no
step of this model raises one. -/
inductive Fault where
  deriving DecidableEq, Repr

/-- Refusals. -/
inductive Refusal where
  /-- The arm of an instruction that has no meaning yet would answer this. Safe. Every arm has its meaning, so no
  step answers it. -/
  | notModelled (mnemonic : String)
  deriving DecidableEq, Repr

/-! Reset values of an instance of each kind (R29 to R38, R42, R440). Array contents are unspecified and
unobservable (R44): the model holds empty lists (log entry 11). -/

/-- A generic FIR instance at reset. -/
def Fir.reset {σ : Type} : Fir σ := ⟨false, .scalar, 0, [], []⟩

/-- A half-band instance at reset. -/
def Hb.reset {σ : Type} : Hb σ := ⟨false, .scalar, [], []⟩

/-- A Hilbert instance at reset. -/
def Hil.reset : Hil := ⟨false, .scalar, false, [], [], []⟩

/-- A DC removal instance at reset. -/
def Dcr.reset : Dcr := ⟨false, .scalar, 0, 0⟩

/-- An oscillator instance at reset. -/
def Nco.reset : Nco := ⟨false, .scalar, 0, 0⟩

/-- A mixer instance at reset. -/
def Mix.reset : Mix := ⟨false, .scalar⟩

/-- A demodulator instance at reset. -/
def Fmd.reset : Fmd := ⟨false, .scalar, 0, 0⟩

/-- An iterator at reset. -/
def Dbi.reset : Dbi := ⟨false, false, false, false, 0, [], 0, 0, [], []⟩

/-- A channel at reset. -/
def Cop.reset : Cop := ⟨false, 0, 0, 0, [], false, 0, 0, 0, 0, 0, [], 0, none⟩

/-- The `SYS` registers at reset: no error recorded, every `VARIANT[k]` `Uncalibrated` (R26, R42). -/
def Sys.reset : Sys := ⟨0, 0, Vector.replicate 9 .uncalibrated⟩

/-- Every unit in its reset state, the ports, the parameters and the arbiter's counter as given: what both hardware
reset and `SYS.RESET` make of the units (R42, R440). -/
def State.cleared (p : Params) (cmd : List Packet) (rsp : List (List Word)) (notif : List Word) (picks : Nat) : State where
  params := p
  sys := Sys.reset
  firr := Bank.fill Fir.reset
  firc := Bank.fill Fir.reset
  hbr := Bank.fill Hb.reset
  hbc := Bank.fill Hb.reset
  hil := Bank.fill Hil.reset
  dcr := Bank.fill Dcr.reset
  nco := Bank.fill Nco.reset
  mix := Bank.fill Mix.reset
  fmd := Bank.fill Fmd.reset
  dbi := Bank.fill Dbi.reset
  cop := Bank.fill Cop.reset
  cmd := cmd
  rsp := rsp
  notif := notif
  picks := picks

/-- The machine right after hardware reset (R42, R440, R441): nothing pending on `CMD`, nothing emitted, the default
parameters of R6. -/
def State.reset : State := State.cleared Params.default [] [] [] 0

end Sys2Proof.Machine
end

