-- ==== Sys2Proof/Machine/Ops.lean ====
section
/-! DEFINITION. Sys2Proof/Machine/Ops.lean: the named operations over the state: slots, answering a command, raising an
error (spec/60_exceptions.md R401: the one thing in this hardware that plays the part of taking an exception; there is
no trap entry and no return, R420, R421), emitting a notification, the checks of a command, latching a variant, the
inputs from outside (a packet sent, hardware reset). -/

namespace Sys2Proof.Machine

/-! Slots. -/

/-- `FIRR[i]` replaced. -/
def State.putFirr (s : State) (i : Inst) (u : Fir F32) : State := { s with firr := s.firr.put i u }

/-- `FIRC[i]` replaced. -/
def State.putFirc (s : State) (i : Inst) (u : Fir Cplx) : State := { s with firc := s.firc.put i u }

/-- `HBR[i]` replaced. -/
def State.putHbr (s : State) (i : Inst) (u : Hb F32) : State := { s with hbr := s.hbr.put i u }

/-- `HBC[i]` replaced. -/
def State.putHbc (s : State) (i : Inst) (u : Hb Cplx) : State := { s with hbc := s.hbc.put i u }

/-- `HIL[i]` replaced. -/
def State.putHil (s : State) (i : Inst) (u : Hil) : State := { s with hil := s.hil.put i u }

/-- `DCR[i]` replaced. -/
def State.putDcr (s : State) (i : Inst) (u : Dcr) : State := { s with dcr := s.dcr.put i u }

/-- `NCO[i]` replaced. -/
def State.putNco (s : State) (i : Inst) (u : Nco) : State := { s with nco := s.nco.put i u }

/-- `MIX[i]` replaced. -/
def State.putMix (s : State) (i : Inst) (u : Mix) : State := { s with mix := s.mix.put i u }

/-- `FMD[i]` replaced. -/
def State.putFmd (s : State) (i : Inst) (u : Fmd) : State := { s with fmd := s.fmd.put i u }

/-- `DBI[i]` replaced. -/
def State.putDbi (s : State) (i : Inst) (u : Dbi) : State := { s with dbi := s.dbi.put i u }

/-- `COP[c]` replaced. -/
def State.putCop (s : State) (c : Inst) (u : Cop) : State := { s with cop := s.cop.put c u }

/-- The `SYS` registers replaced. -/
def State.putSys (s : State) (u : Sys) : State := { s with sys := u }

/-- `INST` < `N_INST[k]` (R101, R109). -/
def State.hasInst (s : State) (k : Kind) (i : Inst) : Bool := i.toNat < s.params.nInst k

/-! Status codes, responses and errors. -/

/-- The status codes (R400). -/
inductive Status where
  | ok | invalidBlockSize | invalidFilterLength | invalidArgument | illegalCommand | notConstructed
  | blockProcessing | noSuchElement
  deriving DecidableEq, Repr

/-- Status code numbers (R400). -/
def Status.code : Status → Nat
  | .ok => 0 | .invalidBlockSize => 1 | .invalidFilterLength => 2 | .invalidArgument => 3 | .illegalCommand => 4
  | .notConstructed => 5 | .blockProcessing => 6 | .noSuchElement => 7

/-- What `LASTERR` records of a command: the header's `KIND`, `FUNC` and `INST` (R28). -/
structure CmdId where
  kind : BitVec 4
  func : BitVec 2
  inst : Inst
  deriving DecidableEq, Repr

/-- The three fields of a header as they stand (R401(c)). -/
def headerId (h : Word) : CmdId := ⟨kindOf h, funcOf h, instOf h⟩

/-- The response word: `STATUS` in [7:0], `INFO` in [31:8] (R106). -/
def responseWord (e : Status) (info : Nat) : Word := BitVec.ofNat 32 (info * 256 + e.code)

/-- `LASTERR`: [7:0] `CODE`, [11:8] `KIND`, [13:12] `FUNC`, [17:14] `INST` (R28). -/
def lasterrWord (e : Status) (id : CmdId) : Word :=
  BitVec.ofNat 32 (e.code + 2 ^ 8 * id.kind.toNat + 2 ^ 12 * id.func.toNat + 2 ^ 14 * id.inst.toNat)

/-- A response packet put on `RSP` (R71, R106). -/
def State.respond (s : State) (e : Status) (info : Nat) (payload : List Word) : State :=
  { s with rsp := s.rsp ++ [responseWord e info :: payload] }

/-- `respond(payload)` with status `OK` (R8, R106). -/
def State.answer (s : State) (info : Nat) (payload : List Word) : State := s.respond .ok info payload

/-- The error record: the sticky bit of the code set, `LASTERR` written (R27, R28). -/
def State.logError (s : State) (e : Status) (id : CmdId) : State :=
  s.putSys { s.sys with
    errflags := s.sys.errflags ||| BitVec.ofNat 32 (2 ^ e.code)
    lasterr := lasterrWord e id }

/-- `raise E` (R401): the error record, a response of the status word alone, and nothing else. -/
def State.raise (s : State) (e : Status) (id : CmdId) : State := (s.logError e id).respond e 0 []

/-! Notifications. -/

/-- Notification types (R410). -/
inductive Event where
  | ovfEntered | ovfCleared | outputBlock
  deriving DecidableEq, Repr

/-- `TYPE` numbers (R410). -/
def Event.code : Event → Nat
  | .ovfEntered => 1 | .ovfCleared => 2 | .outputBlock => 3

/-- A notification word: `TYPE` in [3:0], `CHAN` in [7:4] (R410). -/
def eventWord (e : Event) (c : Inst) : Word := BitVec.ofNat 32 (e.code + 16 * c.toNat)

/-- `emit` of events of channel `c`, in order (R8, R410), after everything emitted before, on any channel: the one list
`NOTIF` is in step order (R416). R412 orders only the words of one channel, and I14 lets those of different channels
interleave in any way that keeps that: the order among them in the list is the model's (DESIGN CHOICE, log entry 18). -/
def State.emit (s : State) (es : List Event) (c : Inst) : State :=
  { s with notif := s.notif ++ es.map fun e => eventWord e c }

/-! The shape of a command. -/

/-- The first check that fails decides the status (R140, R415). -/
def firstError : List (Bool × Status) → Option Status
  | [] => none
  | (bad, e) :: cs => if bad then some e else firstError cs

/-- A command: its checks in order, then its effect, whose state holds the response already where it answers at once.
A failing check raises and leaves every unit as it was (R8, R401). -/
def State.command (s : State) (id : CmdId) (checks : List (Bool × Status)) (effect : State) :
    Host.Outcome State Fault Refusal :=
  match firstError checks with
  | some e => .next (s.raise e id)
  | none => .next effect

/-- The prologue's instance check (R140). -/
def instCheck (s : State) (k : Kind) (i : Inst) : Bool × Status := (!s.hasInst k i, .invalidArgument)

/-- The checks every `PROC` and `GEN` shares, after the prologue: constructed, within `MAX_BLOCK`, a multiple of the
granularity (R402, R415). -/
def procChecks (s : State) (constructed : Bool) (n gran : Nat) : List (Bool × Status) :=
  [(!constructed, .notConstructed),
   (decide (s.params.maxBlock < n), .invalidBlockSize),
   (decide (n % gran ≠ 0), .invalidBlockSize)]

/-! Variants. -/

/-- `VARIANT[k]` for operation kind k = `k` + 1 (R26). -/
def State.variantOf (s : State) (k : Fin 9) : Variant := s.sys.variant[k]

/-- `latch(k)`: `Uncalibrated` falls back to Scalar (R147). The index is k - 1. -/
def State.latch (s : State) (k : Fin 9) : Variant :=
  match s.variantOf k with
  | .uncalibrated => .scalar
  | v => v

/-- Every unit back in its reset state; the ports, the parameters and the arbiter's counter stay (R42, R144). -/
def State.resetUnits (s : State) : State := State.cleared s.params s.cmd s.rsp s.notif s.picks

/-- The host sends a packet on `CMD` (R71). -/
def State.send (s : State) (p : Packet) : State := { s with cmd := s.cmd ++ [p] }

/-- Hardware reset of a machine in any state, an input of the platform as `State.send` is one of the host (R42, R440,
R441): every unit in its reset state; what is pending on `CMD` and every drain between its phases is lost without
response; no event; what `RSP` and `NOTIF` emitted stays emitted; `ID`, `HWCAP` and the other parameters are constants.
The arbiter's counter, the model's own, stays (log entry 14). -/
def State.hardReset (s : State) : State := State.cleared s.params [] s.rsp s.notif s.picks

end Sys2Proof.Machine
end

