-- ==== Sys2Proof/Machine/Operands.lean ====
section
/-! DEFINITION. Sys2Proof/Machine/Operands.lean: operand forms: `FLAGS` bits and timestamps (spec/30_encoding.md R105),
the raw buffer's bytes (spec/20_memory.md R73) and device words (spec/48_dbi.md R357 to R359). -/

namespace Sys2Proof.Machine

/-- `FLAGS` bit 0, `MODE` (R105). -/
def flagsMode (flags : Word) : Bool := flags.getLsbD 0

/-- `FLAGS` bit 1, `PACKED` (R105). -/
def flagsPacked (flags : Word) : Bool := flags.getLsbD 1

/-- `FLAGS` bit 2, `DCEN` (R105). -/
def flagsDcen (flags : Word) : Bool := flags.getLsbD 2

/-- The reserved bits [7:3] and [31:24] of `FLAGS` are zero (R105). -/
def flagsReservedZero (flags : Word) : Bool := flags.extractLsb' 3 5 = 0#5 && flags.extractLsb' 24 8 = 0#8

/-- A timestamp from its two words, low word first on the port (R7, R73). -/
def stampOf (lo hi : Word) : Stamp := hi ++ lo

/-- The low word of a timestamp. -/
def stampLo (t : Stamp) : Word := t.extractLsb' 0 32

/-- The high word of a timestamp. -/
def stampHi (t : Stamp) : Word := t.extractLsb' 32 32

/-- The four bytes of a payload word, little-endian (R73). -/
def bytesOfWord (w : Word) : List Byte :=
  [w.extractLsb' 0 8, w.extractLsb' 8 8, w.extractLsb' 16 8, w.extractLsb' 24 8]

/-- The bytes of the raw payload words, in order (R73). -/
def rawBytes (ws : List Word) : List Byte := ws.flatMap bytesOfWord

/-- The pair stride in bytes: 3 packed, 4 unpacked (R351). -/
def pairStride (packed : Bool) : Nat := if packed then 3 else 4

/-- The device words of unpacked pairs: little-endian 16-bit words, the low `w` bits of each (R357). -/
def unpackedPairs (w : Nat) : List Byte → List (Nat × Nat)
  | a :: b :: c :: d :: t =>
    ((a.toNat + 256 * b.toNat) % 2 ^ w, (c.toNat + 256 * d.toNat) % 2 ^ w) :: unpackedPairs w t
  | _ => []

/-- The device words of packed 12-bit pairs (R358). -/
def packedPairs : List Byte → List (Nat × Nat)
  | a :: b :: c :: t =>
    (a.toNat + 256 * (b.toNat % 16), b.toNat / 16 + 16 * c.toNat) :: packedPairs t
  | _ => []

/-- `scale(u)`: the midpoint subtracted, times 2^-(W-1) (R359). -/
def scaleWord (w u : Nat) : F32 := fmul (i2f ((u : Int) - 2 ^ (w - 1))) (pow2neg (w - 1))

/-- The scaled device words of fragment `f` of a raw buffer: bytes f * FB to (f+1) * FB - 1 (R78, R351, R357 to
R359). -/
def fragmentPairs (P : Params) (packed : Bool) (raw : List Byte) (f : Nat) : List Cplx :=
  let fb := P.fragSize * pairStride packed
  let bytes := (raw.drop (f * fb)).take fb
  let us := if packed then packedPairs bytes else unpackedPairs P.sampleBits bytes
  us.map fun u => (scaleWord P.sampleBits u.1, scaleWord P.sampleBits u.2)

end Sys2Proof.Machine
end

