-- ==== Sys2Proof/Machine/Flags.lean ====
section
/-! DEFINITION. Sys2Proof/Machine/Flags.lean: every status word and flag computation, and the register file as
`SYS.RDREG` reads it (spec/10_state.md R23 to R38). No arithmetic command sets a condition code (R23). -/

namespace Sys2Proof.Machine

/-- A number as a register word. -/
def regNat (n : Nat) : Word := BitVec.ofNat 32 n

/-- A register of an instance reads 0 unless the instance is constructed, open or opened (R24). -/
def live (flag : Bool) (v : Word) : Word := if flag then v else 0

/-- `STATUS` of kinds 1 to 9: bit 0 `CONSTRUCTED`, bits [3:1] `IVAR`, bit 4 `PAR` for `HIL` only (R29). -/
def filterStatus (constructed : Bool) (ivar : Variant) (par : Bool) : Word :=
  live constructed (regNat (1 + 2 * ivar.code + 16 * par.toNat))

/-- `HASNEXT`: `OPEN` and `POS` < `NFRAG` (R23(c), R366). -/
def Dbi.hasNext (u : Dbi) : Bool := u.isOpen && decide (u.pos < u.nfrag)

/-- `DBI.STATUS` (R37). -/
def Dbi.status (u : Dbi) : Word :=
  live u.isOpen (regNat (1 + 2 * u.hasNext.toNat + 4 * u.mode.toNat + 8 * u.packed.toNat + 16 * u.dcen.toNat))

/-- `COP.STATUS`: bit 0 `OPENED`, bit 1 `OVF` (R38). -/
def Cop.status (q : Cop) : Word := live q.opened (regNat (1 + 2 * q.ovf.toNat))

/-- `HWCAP`: `MAXVAR` and `CMDSET` = 0x10 (R25). -/
def hwcap (P : Params) : Word := regNat (P.hwMaxVariant + 2 ^ 8 * 0x10)

/-- `HIL.OVERLAP`, constant: 11 in [7:0], 23 in [15:8] (R32). -/
def hilOverlap : Word := 0x0000170B#32

/-- The `SYS` registers (R25). -/
def readSys (s : State) (regno : Nat) : Option Word :=
  if regno = 0 then some s.params.coreId
  else if regno = 1 then some (hwcap s.params)
  else if regno = 2 then some s.sys.errflags
  else if regno = 3 then some s.sys.lasterr
  else if h : 17 ≤ regno ∧ regno ≤ 25 then some (regNat (s.variantOf ⟨regno - 17, by omega⟩).code)
  else none

/-- `FIRR` and `FIRC` registers (R29, R30). -/
def readFir {σ : Type} (u : Fir σ) : Nat → Option Word
  | 0 => some (filterStatus u.constructed u.ivar false)
  | 1 => some (live u.constructed (regNat u.coef.length))
  | 2 => some (live u.constructed (regNat u.decim.toNat))
  | 3 => some (live u.constructed (regNat (u.coef.length - 1)))
  | _ => none

/-- `HBR` and `HBC` registers (R29, R31). -/
def readHb {σ : Type} (u : Hb σ) : Nat → Option Word
  | 0 => some (filterStatus u.constructed u.ivar false)
  | 1 => some (live u.constructed (regNat u.coef.length))
  | 2 => some (live u.constructed (regNat 2))
  | 3 => some (live u.constructed (regNat (u.coef.length - 1)))
  | _ => none

/-- `HIL` registers (R29, R32). -/
def readHil (u : Hil) : Nat → Option Word
  | 0 => some (filterStatus u.constructed u.ivar u.par)
  | 1 => some (live u.constructed (regNat 47))
  | 2 => some (live u.constructed (regNat 2))
  | 3 => some hilOverlap
  | _ => none

/-- `DCR` registers (R29, R33). -/
def readDcr (u : Dcr) : Nat → Option Word
  | 0 => some (filterStatus u.constructed u.ivar false)
  | 4 => some (live u.constructed u.alpha)
  | 5 => some (live u.constructed u.avg)
  | _ => none

/-- `NCO` registers (R29, R34). -/
def readNco (u : Nco) : Nat → Option Word
  | 0 => some (filterStatus u.constructed u.ivar false)
  | 4 => some (live u.constructed u.inc)
  | 5 => some (live u.constructed u.phase)
  | _ => none

/-- `MIX` registers (R29, R35). -/
def readMix (u : Mix) : Nat → Option Word
  | 0 => some (filterStatus u.constructed u.ivar false)
  | _ => none

/-- `FMD` registers (R29, R36). -/
def readFmd (u : Fmd) : Nat → Option Word
  | 0 => some (filterStatus u.constructed u.ivar false)
  | 4 => some (live u.constructed u.prevI)
  | 5 => some (live u.constructed u.prevQ)
  | _ => none

/-- `DBI` registers (R37). -/
def readDbi (u : Dbi) : Nat → Option Word
  | 0 => some u.status
  | 1 => some (live u.isOpen (regNat u.pos))
  | 2 => some (live u.isOpen (regNat u.nfrag))
  | 3 => some (live u.isOpen (regNat u.raw.length))
  | 6 => some (live u.isOpen (stampLo u.ts))
  | 7 => some (live u.isOpen (stampHi u.ts))
  | _ => none

/-- `COP` registers (R38). -/
def readCop (q : Cop) : Nat → Option Word
  | 0 => some q.status
  | 1 => some (live q.opened q.capacity)
  | 2 => some (live q.opened q.recovery)
  | 3 => some (live q.opened q.outblk)
  | 4 => some (live q.opened q.gain)
  | 5 => some (live q.opened q.finc)
  | 6 => some (live q.opened q.fphase)
  | 7 => some (live q.opened (regNat q.queue.length))
  | 8 => some (live q.opened q.drops)
  | 9 => some (live q.opened q.blkerr)
  | 10 => some (live q.opened (regNat q.asm.length))
  | 11 => some (live q.opened (stampLo q.asmTs))
  | 12 => some (live q.opened (stampHi q.asmTs))
  | _ => none

/-- The kind an `RKIND` field names (R24, R102); 12 and above name none. -/
def kindOfCode : Nat → Option Kind
  | 0 => some .sys | 1 => some .firr | 2 => some .firc | 3 => some .hbr | 4 => some .hbc | 5 => some .hil
  | 6 => some .dcr | 7 => some .nco | 8 => some .mix | 9 => some .fmd | 10 => some .dbi | 11 => some .cop
  | _ => none

/-- Register `regno` of instance `i` of a kind; `none` where no such register is listed (R24). -/
def readReg (s : State) (k : Kind) (i : Inst) (regno : Nat) : Option Word :=
  match k with
  | .sys => readSys s regno
  | .firr => readFir (s.firr.at i) regno
  | .firc => readFir (s.firc.at i) regno
  | .hbr => readHb (s.hbr.at i) regno
  | .hbc => readHb (s.hbc.at i) regno
  | .hil => readHil (s.hil.at i) regno
  | .dcr => readDcr (s.dcr.at i) regno
  | .nco => readNco (s.nco.at i) regno
  | .mix => readMix (s.mix.at i) regno
  | .fmd => readFmd (s.fmd.at i) regno
  | .dbi => readDbi (s.dbi.at i) regno
  | .cop => readCop (s.cop.at i) regno

/-- Increment saturating at 2^32 - 1 (R38, R114(b)). -/
def satInc (n : Word) : Word := if n = BitVec.allOnes 32 then n else n + 1

end Sys2Proof.Machine
end

