-- ==== Sys2Proof/Machine/Trig.lean ====
section
/-! DEFINITION. Sys2Proof/Machine/Trig.lean: the oscillator functions (spec/00_scope.md R14) and the arctangent
function (R15): the named exact values, then the implementation's free value where it lies in the range the rule
allows, else the reference value. Ranges are decided by integer arithmetic on a fixed-point value of the real
function with 340 fraction bits, whose own error the test adds (2^-60) to the rule's bound (log entries 4 and 5). -/

namespace Sys2Proof.Machine

/-- One, in the fixed-point format with 340 fraction bits. -/
def fixOne : Nat := 2 ^ 170 * 2 ^ 170

/-- Pi in that format, rounded down. -/
def fixPi : Nat := 0x3243f6a8885a308d313198a2e03707344a4093822299f31d0082efa98ec4e6c89452821e638d01377be546

/-- The nested form 1 - x²/(1·2) (1 - x²/(3·4) (...)) of the cosine series as a fraction, for x = `xn` / `xd`, one
level per entry of the list (its k-th entry k). -/
def cosHorner (xn xd : Nat) : List Nat → Int × Nat
  | [] => (1, 1)
  | k :: ks =>
    let (n, d) := cosHorner xn xd ks
    let c := (2 * k - 1) * (2 * k)
    ((xd * xd * c * d : Nat) - (xn * xn : Nat) * n, xd * xd * c * d)

/-- The cosine of pi * `a` / 2^31, for `a` at most 2^30, in fixed point. -/
def fixCosQuarter (a : Nat) : Int :=
  let (n, d) := cosHorner (a * fixPi) (2 ^ 31 * fixOne) (List.range' 1 24)
  n * fixOne / d

/-- The cosine of 2 pi `p` / 2^32 in fixed point: folded into the first quarter turn. -/
def fixCos (p : Nat) : Int :=
  let q := p % 2 ^ 32
  let h := if q ≤ 2 ^ 31 then q else 2 ^ 32 - q
  if h ≤ 2 ^ 30 then fixCosQuarter h else - fixCosQuarter (2 ^ 31 - h)

/-- The sine of 2 pi `p` / 2^32 in fixed point. -/
def fixSin (p : Nat) : Int := fixCos (p + 3 * 2 ^ 30)

/-- A fixed-point value rounded to the nearest binary32. -/
def fixToF32 (v : Int) : F32 := signed (v < 0) (roundMag (v.natAbs * 2 ^ 149) 340)

/-- A finite binary32 within `eps` of a fixed-point value, with 2^-60 to spare for the value's own error. -/
def nearFix (eps : Rat) (v : F32) (c : Int) : Bool :=
  isFinite v &&
    (units v * fixOne - c * 2 ^ 149).natAbs * (eps.den * 2 ^ 60)
      ≤ (eps.num.natAbs * 2 ^ 60 + eps.den) * (fixOne * 2 ^ 149)

/-- A finite binary32 in [-1.0, 1.0]. -/
def inUnit (v : F32) : Bool := isFinite v && (units v).natAbs ≤ 2 ^ 149

/-- The cosine at a multiple of a quarter turn (R14(b)). -/
def axisCos (quarter : Nat) : F32 :=
  match quarter with
  | 0 => fone
  | 2 => fnegOne
  | _ => fzero

/-- The sine at a multiple of a quarter turn (R14(b)). -/
def axisSin (quarter : Nat) : F32 :=
  match quarter with
  | 1 => fone
  | 3 => fnegOne
  | _ => fzero

/-- An oscillator function off the axes: the raw value where R14(a) and (c) allow it, else the reference value. -/
def boundedTrig (P : Params) (raw : F32) (c : Int) : F32 :=
  match P.numerics with
  | .reference => fixToF32 c
  | .implementation => if inUnit raw && nearFix P.ncoEps raw c then raw else fixToF32 c

/-- `nco_cos` (R14). -/
def ncoCos (P : Params) (p : Word) : F32 :=
  if p.toNat % 2 ^ 30 = 0 then axisCos (p.toNat / 2 ^ 30)
  else boundedTrig P (Config.ncoCosRaw p) (fixCos p.toNat)

/-- `nco_sin` (R14). -/
def ncoSin (P : Params) (p : Word) : F32 :=
  if p.toNat % 2 ^ 30 = 0 then axisSin (p.toNat / 2 ^ 30)
  else boundedTrig P (Config.ncoSinRaw p) (fixSin p.toNat)

/-- The nested form 1 - u² (1/3 - u² (1/5 - ...)) of the arctangent series divided by u, as a fraction, for
u = `un` / `ud`, one level per entry of the list (its k-th entry k). -/
def atanHorner (un ud : Nat) : List Nat → Int × Nat
  | [] => (0, 1)
  | k :: ks =>
    let (n, d) := atanHorner un ud ks
    ((ud * ud * d : Nat) - (2 * k + 1 : Nat) * (un * un : Nat) * n, (2 * k + 1) * (ud * ud) * d)

/-- The arctangent of `un` / `ud`, for a quotient in [0, 1/2], in fixed point. -/
def fixAtanSmall (un ud : Nat) : Int :=
  let (n, d) := atanHorner un ud (List.range 50)
  un * n * fixOne / (ud * d : Nat)

/-- The arctangent of `a` / `b`, for 0 ≤ a ≤ b and b > 0, in fixed point. -/
def fixAtan (a b : Nat) : Int :=
  if 2 * a ≤ b then fixAtanSmall a b else fixPi / 4 - fixAtanSmall (b - a) (b + a)

/-- The four-quadrant arctangent of `y` and `x`, not both zero, in fixed point. -/
def fixAtan2 (y x : Int) : Int :=
  let a := y.natAbs
  let b := x.natAbs
  let first := if a ≤ b then fixAtan a b else fixPi / 2 - fixAtan b a
  let half := if x < 0 then fixPi - first else first
  if y < 0 then - half else half

/-- The binary32 nearest to pi (R15(b)). -/
def f32Pi : F32 := 0x40490FDB#32

/-- The binary32 nearest to pi / 2 (R15(b)). -/
def f32HalfPi : F32 := 0x3FC90FDB#32

/-- A result R15(d) leaves open: a quiet NaN, or a value in [-f32const(pi), f32const(pi)]. -/
def openAngle (v : F32) : Bool :=
  (isNaN v && 2 ^ 22 ≤ fracField v) || (isFinite v && (units v).natAbs ≤ (units f32Pi).natAbs)

/-- `atan2_32(y, x)` (R15): a NaN operand gives a NaN (c); operands the rule leaves open give any open angle (d);
then the exact anchor values (b); y = -0.0 with x < 0 gives either end of the range (d); otherwise a value
within `ATAN_EPS` (a). For y = -0.0 and x > 0 the real value is 0 and R15 does not say which zero the reference function
rounds it to (an IEEE-style one, as C12 calls it, gives -0.0): the zero is a free value of the operands, `raw` where that
is a zero and +0.0 elsewhere (DESIGN CHOICE, log entry 5). -/
def atan2 (P : Params) (y x : F32) : F32 :=
  let raw := Config.atan2Raw y x
  if isNaN y || isNaN x then nanOf .atan2 y x
  else if !isFinite y || !isFinite x || (isZero y && isZero x && !(y = fzero && x = fzero)) then
    if openAngle raw then raw else fzero
  else if y = fzero then
    if signBit x && !isZero x then f32Pi else fzero
  else if isZero x then
    if signBit y then fneg f32HalfPi else f32HalfPi
  else if isZero y && signBit x then
    match P.numerics with
    | .reference => fneg f32Pi
    | .implementation => if raw = f32Pi then f32Pi else fneg f32Pi
  else
    let c := fixAtan2 (units y) (units x)
    match P.numerics with
    | .reference => if isZero y && isZero raw then raw else fixToF32 c
    | .implementation => if nearFix P.atanEps raw c then raw else fixToF32 c

end Sys2Proof.Machine
end

