-- ==== Sys2Proof/Machine/Filters.lean ====
section
/-! DEFINITION. Sys2Proof/Machine/Filters.lean: the sample functions the units share, each a function of lists: the
overlap-save rails of the FIR, half-band and Hilbert units, the DC removal recurrence, the oscillator phases, the
mixer product and the demodulator (spec/20_memory.md R79; spec/41 to 46). -/

namespace Sys2Proof.Machine

/-- Element `j` of a buffer; no rule reads past the end. -/
def elem (w : List F32) (j : Nat) : F32 := w.getD j fzero

/-- The I rail of complex samples (R17). -/
def railI (x : List Cplx) : List F32 := x.map Prod.fst

/-- The Q rail of complex samples (R17). -/
def railQ (x : List Cplx) : List F32 := x.map Prod.snd

/-- Two rails as complex samples (R17). -/
def joinRails (i q : List F32) : List Cplx := i.zip q

/-- The working buffer: the residual, then the block (R79). -/
def workBuf {α : Type} (resid x : List α) : List α := resid ++ x

/-- The residual after a block: the working buffer from index N on, N the block's length (R79). -/
def nextResid {α : Type} (resid x : List α) : List α := (workBuf resid x).drop x.length

/-! Generic FIR (R162). -/

/-- `firout(w, m)` (R162). -/
def firOut (num : Numerics) (v : Variant) (c : List F32) (d : Nat) (w : List F32) (m : Nat) : F32 :=
  sumBy num v ((List.range c.length).map fun k => fmul (elem c k) (elem w (m * d + (c.length - 1) - k)))

/-- The outputs of a block on one rail: M = N div D of them (R163). -/
def firRail (num : Numerics) (v : Variant) (c : List F32) (d : Nat) (resid x : List F32) : List F32 :=
  (List.range (x.length / d)).map fun m => firOut num v c d (workBuf resid x) m

/-- The outputs of a complex block: both rails with one coefficient array (R164). -/
def firRails (num : Numerics) (v : Variant) (c : List F32) (d : Nat) (resid x : List Cplx) : List Cplx :=
  joinRails (firRail num v c d (railI resid) (railI x)) (firRail num v c d (railQ resid) (railQ x))

/-! Half-band (R190 to R198). -/

/-- `hb_ok(c, L)` (R194). -/
def hbOk (c : List F32) : Bool :=
  let l := c.length
  let h := (l - 1) / 2
  isHalf (elem c h) &&
  (List.range l).all (fun k => !(k % 2 = 1 && k ≠ h) || isZero (elem c k)) &&
  (List.range h).all (fun k => !(k % 2 = 0) || feq (elem c k) (elem c (l - 1 - k)))

/-- `hbout(w, n)`: the centre term, then the folded pairs at even k (R196; spec/90_conflicts.md C1). -/
def hbOut (num : Numerics) (v : Variant) (c : List F32) (w : List F32) (n : Nat) : F32 :=
  let h := (c.length - 1) / 2
  sumBy num v (fmul (elem c h) (elem w (n + h)) ::
    (List.range ((h + 1) / 2)).map fun j =>
      fmul (elem c (2 * j)) (fadd (elem w (n + 2 * j)) (elem w (n + (c.length - 1) - 2 * j))))

/-- The outputs of a block on one rail: N / 2 of them, windows two apart (R197). -/
def hbRail (num : Numerics) (v : Variant) (c resid x : List F32) : List F32 :=
  (List.range (x.length / 2)).map fun m => hbOut num v c (workBuf resid x) (2 * m)

/-- The outputs of a complex block (R198). -/
def hbRails (num : Numerics) (v : Variant) (c : List F32) (resid x : List Cplx) : List Cplx :=
  joinRails (hbRail num v c (railI resid) (railI x)) (hbRail num v c (railQ resid) (railQ x))

/-! Hilbert transformer (R220 to R227). -/

/-- The sign sequences A and B of R221, the first pair odd exactly when `odd` (R226). -/
def signPairs (odd : Bool) : List Cplx → List Cplx
  | [] => []
  | (r0, r1) :: t => (if odd then (fneg r0, r1) else (r0, fneg r1)) :: signPairs (!odd) t

/-- Output sample `m` from the two working buffers (R224). -/
def hilOut (num : Numerics) (v : Variant) (c wa wb : List F32) (m : Nat) : Cplx :=
  (fmul (elem c 23) (elem wa m),
   sumBy num v ((List.range 12).map fun j =>
     fmul (elem c (2 * j)) (fadd (elem wb (m + j)) (elem wb (m + 23 - j)))))

/-- The outputs of a block of sign-alternated pairs `ab` (R224, R227). -/
def hilRails (num : Numerics) (v : Variant) (c residI residQ : List F32) (ab : List Cplx) : List Cplx :=
  (List.range ab.length).map fun m => hilOut num v c (workBuf residI (railI ab)) (workBuf residQ (railQ ab)) m

/-- `PAR` after `n` more pairs (R226). -/
def nextPar (par : Bool) (n : Nat) : Bool := par != decide (n % 2 = 1)

/-! DC removal (R240). -/

/-- The outputs and the final estimate of the recurrence over a block (R240, R246). -/
def dcrRun (alpha avg : F32) : List F32 → List F32 × F32
  | [] => ([], avg)
  | x :: xs =>
    let y := fsub x avg
    let r := dcrRun alpha (fadd avg (fmul alpha y)) xs
    (y :: r.1, r.2)

/-! Oscillator and mixer (R255 to R270). -/

/-- The phases of `n` samples from `phase` in steps of `inc`, modulo 2^32 (R262). -/
def phases (phase inc : Word) (n : Nat) : List Word :=
  (List.range n).map fun k => phase + BitVec.ofNat 32 k * inc

/-- The phase after `n` samples (R262). -/
def nextPhase (phase inc : Word) (n : Nat) : Word := phase + BitVec.ofNat 32 n * inc

/-- The oscillator sample at a phase (R255). -/
def ncoAt (P : Params) (p : Word) : Cplx := (ncoCos P p, ncoSin P p)

/-- A block of oscillator samples (R262). -/
def ncoRun (P : Params) (phase inc : Word) (n : Nat) : List Cplx := (phases phase inc n).map (ncoAt P)

/-- `cmix(i, q, c, s)` (R268). -/
def cmix (x w : Cplx) : Cplx :=
  (fsub (fmul x.1 w.1) (fmul x.2 w.2), fadd (fmul x.2 w.1) (fmul x.1 w.2))

/-- A block mixed with the oscillator from a phase on (R270). -/
def mixRun (P : Params) (phase inc : Word) (x : List Cplx) : List Cplx :=
  List.zipWith cmix x (ncoRun P phase inc x.length)

/-! FM demodulator (R285, R290). -/

/-- One output: the angle from the previous sample to the current one, +0.0 where both product parts are zero
(R290). -/
def fmdOut (P : Params) (prev x : Cplx) : F32 :=
  let di := fadd (fmul x.1 prev.1) (fmul x.2 prev.2)
  let dq := fsub (fmul x.2 prev.1) (fmul x.1 prev.2)
  if isZero di && isZero dq then fzero else atan2 P dq di

/-- The outputs of a block, each sample against the one before it (R290). -/
def fmdRun (P : Params) (prev : Cplx) : List Cplx → List F32
  | [] => []
  | x :: xs => fmdOut P prev x :: fmdRun P x xs

/-- The last sample seen (R290). -/
def fmdLast (prev : Cplx) (x : List Cplx) : Cplx := x.getLast?.getD prev

end Sys2Proof.Machine
end

