-- ==== Sys2Proof/Machine/Channel.lean ====
section
/-! DEFINITION. Sys2Proof/Machine/Channel.lean: `COP`, the channel output processor (spec/47_cop.md R300 to R331).
`COP.DRAIN` is two atomic steps (R312): its meaning is phase 1, which leaves the dequeued blocks in `INFLIGHT`; phase 2
is `finishDrain`, a later step of the channel's consumer side, and it answers the command. -/

namespace Sys2Proof.Machine

/-- An output block: its timestamp and its samples (R321, R322). -/
structure OutBlock where
  ts   : Stamp
  data : List Cplx
  deriving DecidableEq, Repr

/-- The checks of `COP.OPEN` (R301): already opened, then the queue sizes, then the output block size (R415). -/
def copOpenChecks (s : State) (c : Inst) (capacity recovery outblk : Word) : List (Bool × Status) :=
  [((s.cop.at c).opened, .invalidArgument),
   (decide (¬(1 ≤ recovery.toNat ∧ recovery.toNat ≤ capacity.toNat ∧ capacity.toNat ≤ s.params.maxQcap)),
    .invalidArgument),
   (decide (¬(1 ≤ outblk.toNat ∧ outblk.toNat ≤ s.params.maxBlock)), .invalidArgument)]

/-- A freshly opened channel (R301): empty queue, gain 1.0, no correction. A drain in progress is none of its
business and stays. -/
def copOpened (q : Cop) (capacity recovery outblk : Word) : Cop :=
  { Cop.reset with
    opened := true, capacity := capacity, recovery := recovery, outblk := outblk, gain := fone
    inflight := q.inflight }

/-- `COP.OPEN` (R301). -/
def execCopOpen (c : Inst) (capacity recovery outblk : Word) (s : State) : Host.Outcome State Fault Refusal :=
  s.command ⟨11, 0, c⟩ (instCheck s .cop c :: copOpenChecks s c capacity recovery outblk)
    ((s.putCop c (copOpened (s.cop.at c) capacity recovery outblk)).answer 0 [])

/-- The atomic step of `COP.SUBMIT` (R303): refused at capacity, with the count and, on the edge, the flag and its
event (R307, R308); else appended, nothing else changed (R306, R309). -/
def copSubmitStep (s : State) (c : Inst) (b : Block) : State :=
  let q := s.cop.at c
  if q.queue.length = q.capacity.toNat then
    let s1 := s.putCop c { q with drops := satInc q.drops, ovf := true }
    (if q.ovf then s1 else s1.emit [.ovfEntered] c).answer 0 []
  else (s.putCop c { q with queue := q.queue ++ [b] }).answer 1 []

/-- `COP.SUBMIT` (R303). -/
def execCopSubmit (c : Inst) (tsLo tsHi : Word) (x : List Cplx) (s : State) : Host.Outcome State Fault Refusal :=
  s.command ⟨11, 1, c⟩
    [instCheck s .cop c, (!(s.cop.at c).opened, .notConstructed),
     (decide (s.params.maxBlock < x.length), .invalidBlockSize)]
    (copSubmitStep s c ⟨stampOf tsLo tsHi, x⟩)

/-- The overflow flag clears in the dequeue that leaves fewer than `RECOVERY` blocks (R311). -/
def ovfClears (q : Cop) (rest : List Block) : Bool := q.ovf && decide (rest.length < q.recovery.toNat)

/-- Phase 1 of `COP.DRAIN` (R310, R311, R312): the oldest min(`maxItems`, `OCC`) blocks leave the queue. -/
def drainDequeue (s : State) (c : Inst) (maxItems : Nat) : State :=
  let q := s.cop.at c
  let rest := q.queue.drop maxItems
  let s1 := s.putCop c { q with
    queue := rest
    inflight := some (q.queue.take maxItems)
    ovf := q.ovf && !ovfClears q rest }
  if ovfClears q rest then s1.emit [.ovfCleared] c else s1

/-- `COP.DRAIN` (R312): phase 1; the response comes with phase 2. -/
def execCopDrain (c : Inst) (maxItems : BitVec 22) (s : State) : Host.Outcome State Fault Refusal :=
  s.command ⟨11, 2, c⟩ [instCheck s .cop c, (!(s.cop.at c).opened, .notConstructed)]
    (drainDequeue s c maxItems.toNat)

/-- `BLOCK_FAULT` (R318). -/
def blockFault (P : Params) (b : Block) : Bool :=
  match P.blockFault with
  | .listed bs => bs.contains b
  | .implementation => Config.blockFaultRaw b

/-- Frequency correction of a block: skipped entirely when `FINC` is 0 (R316). -/
def correct (P : Params) (q : Cop) (x : List Cplx) : List Cplx :=
  if q.finc = 0#32 then x else mixRun P q.fphase q.finc x

/-- The correction phase after a block of `n` samples (R316). -/
def correctedPhase (q : Cop) (n : Nat) : Word :=
  if q.finc = 0#32 then q.fphase else nextPhase q.fphase q.finc n

/-- Gain: every I and Q word times `GAIN` (R319). -/
def applyGain (g : F32) (x : List Cplx) : List Cplx := x.map fun v => (fmul v.1 g, fmul v.2 g)

/-- Reassembly of samples of a block tagged `ts` (R321, R322): the channel and the output blocks completed. -/
def assemble (q : Cop) (ts : Stamp) : List Cplx → Cop × List OutBlock
  | [] => (q, [])
  | v :: vs =>
    let t := if q.asm = [] then ts else q.asmTs
    let full := q.asm ++ [v]
    if full.length = q.outblk.toNat then
      let r := assemble { q with asm := [], asmTs := t } ts vs
      (r.1, ⟨t, full⟩ :: r.2)
    else assemble { q with asm := full, asmTs := t } ts vs

/-- One block that does not fault: correction, gain, reassembly (R313). -/
def processBlock (P : Params) (q : Cop) (b : Block) : Cop × List OutBlock :=
  assemble { q with fphase := correctedPhase q b.data.length } b.ts (applyGain q.gain (correct P q b.data))

/-- One drained block (R312, R318): a faulting block is skipped whole, counted and logged; any other is processed,
each output block it completes with its event. The events of a drain's phase 2 stand together on `NOTIF`: one step emits
them, and R416 has notifications in step order (R412 and I14 order only the words of one channel; DESIGN CHOICE, log
entry 18). -/
def drainBlock (c : Inst) (a : State × List OutBlock) (b : Block) : State × List OutBlock :=
  let s := a.1
  let q := s.cop.at c
  if blockFault s.params b then
    ((s.putCop c { q with blkerr := satInc q.blkerr }).logError .blockProcessing ⟨11, 2, c⟩, a.2)
  else
    let r := processBlock s.params q b
    ((s.putCop c r.1).emit (r.2.map fun _ => .outputBlock) c, a.2 ++ r.2)

/-- The words of an output block in a drain's response (R107, R312). -/
def outWords (o : OutBlock) : List Word := stampLo o.ts :: stampHi o.ts :: interleave o.data

/-- `len(out)` as the first payload word of a drain's response (R312): the number itself below 2^32. R312 does not say
what the word holds past that, which the parameters of R6 allow: there it is a free value of the number (DESIGN CHOICE,
log entry 22). -/
def countWord (n : Nat) : Word := if n < 2 ^ 32 then BitVec.ofNat 32 n else Config.countPast32 n

/-- Phase 2 of `COP.DRAIN` (R312): the drained blocks processed in order, then the response. -/
def finishDrain (s : State) (c : Inst) : State :=
  let bs := (s.cop.at c).inflight.getD []
  let r := bs.foldl (drainBlock c) (s, [])
  let s1 := r.1.putCop c { r.1.cop.at c with inflight := none }
  s1.answer bs.length (countWord r.2.length :: r.2.flatMap outWords)

/-- `COP.DETACH` (R325): the channel back in its reset state, silently. A drain in progress is none of its business
and stays. -/
def execCopDetach (c : Inst) (s : State) : Host.Outcome State Fault Refusal :=
  s.command ⟨11, 3, c⟩ [instCheck s .cop c, (!(s.cop.at c).opened, .notConstructed)]
    ((s.putCop c { Cop.reset with inflight := (s.cop.at c).inflight }).answer 0 [])

end Sys2Proof.Machine
end

