-- ==== Sys2Proof/Machine/DcRemoval.lean ====
section
/-! DEFINITION. Sys2Proof/Machine/DcRemoval.lean: `DCR`, the DC removal filter (spec/44_dcr.md R240 to R247). -/

namespace Sys2Proof.Machine

/-- The estimate back at +0.0, if the instance is constructed (R247). -/
def dcrCleared (u : Dcr) : Dcr := if u.constructed then { u with avg := fzero } else u

/-- `DCR.LOAD` (R242): any `ALPHA`, the estimate at +0.0. -/
def execDcrLoad (i : Inst) (alpha : F32) (s : State) : Host.Outcome State Fault Refusal :=
  s.command ⟨6, 0, i⟩ [instCheck s .dcr i] ((s.putDcr i ⟨true, s.latch 5, alpha, fzero⟩).answer 0 [])

/-- `DCR.PROC` (R246). -/
def execDcrProc (i : Inst) (x : List F32) (s : State) : Host.Outcome State Fault Refusal :=
  let u := s.dcr.at i
  let r := dcrRun u.alpha u.avg x
  s.command ⟨6, 1, i⟩ (instCheck s .dcr i :: procChecks s u.constructed x.length (lanes u.ivar))
    ((s.putDcr i { u with avg := r.2 }).answer r.1.length r.1)

/-- `DCR.CLR` (R247). -/
def execDcrClr (i : Inst) (s : State) : Host.Outcome State Fault Refusal :=
  s.command ⟨6, 2, i⟩ [instCheck s .dcr i] ((s.putDcr i (dcrCleared (s.dcr.at i))).answer 0 [])

end Sys2Proof.Machine
end

