-- ==== Sys2Proof/Machine/DeviceBuffer.lean ====
section
/-! DEFINITION. Sys2Proof/Machine/DeviceBuffer.lean: `DBI`, the device sample buffer iterator (spec/48_dbi.md R350 to
R370). -/

namespace Sys2Proof.Machine

/-- The residual lengths a mode calls for: 11 and 23 real-sampled, none native (R355). -/
def wantResid (mode : Bool) : Nat × Nat := if mode then (11, 23) else (0, 0)

/-- The packet's word count, the last of the prologue's checks that the decoder makes (R140, R353). -/
def dbiCountOk (rawlen : BitVec 22) (flags : Word) (residI residQ : List F32) (raw : List Word) : Bool :=
  residI.length = flagsLenI flags && residQ.length = flagsLenQ flags && raw.length = rawWords rawlen.toNat

/-- The checks of `DBI.OPEN`, in the order of R353. -/
def dbiOpenChecks (s : State) (i : Inst) (rawlen : BitVec 22) (flags : Word) (raw : List Word) : List (Bool × Status) :=
  let mode := flagsMode flags
  let packed := flagsPacked flags
  let dcen := flagsDcen flags
  let n := rawlen.toNat
  [(!flagsReservedZero flags, .invalidArgument),
   (packed && decide (s.params.sampleBits ≠ 12), .invalidArgument),
   (!mode && dcen, .invalidArgument),
   (decide ((flagsLenI flags, flagsLenQ flags) ≠ wantResid mode), .invalidArgument),
   (decide (s.params.maxRaw < n ∨ n % (s.params.fragSize * pairStride packed) ≠ 0), .invalidArgument),
   (((rawBytes raw).drop n).any (fun b => b ≠ 0#8), .invalidArgument),
   (mode && (!s.hasInst .hil i || (dcen && !s.hasInst .dcr i)), .invalidArgument),
   (mode && !(s.hil.at i).constructed, .notConstructed),
   (dcen && !(s.dcr.at i).constructed, .notConstructed)]

/-- A freshly opened iterator (R353). -/
def dbiOpened (P : Params) (rawlen : BitVec 22) (flags tsLo tsHi : Word) (residI residQ : List F32) (raw : List Word) :
    Dbi where
  isOpen := true
  mode := flagsMode flags
  packed := flagsPacked flags
  dcen := flagsDcen flags
  ts := stampOf tsLo tsHi
  raw := (rawBytes raw).take rawlen.toNat
  nfrag := rawlen.toNat / (P.fragSize * pairStride (flagsPacked flags))
  pos := 0
  residI := residI
  residQ := residQ

/-- `DBI.OPEN` (R353): a successful one replaces an open iterator. -/
def execDbiOpen (i : Inst) (rawlen : BitVec 22) (flags tsLo tsHi : Word) (residI residQ : List F32) (raw : List Word)
    (s : State) : Host.Outcome State Fault Refusal :=
  s.command ⟨10, 0, i⟩
    ((!dbiCountOk rawlen flags residI residQ raw, .invalidArgument) :: instCheck s .dbi i ::
      dbiOpenChecks s i rawlen flags raw)
    ((s.putDbi i (dbiOpened s.params rawlen flags tsLo tsHi residI residQ raw)).answer 0 [])

/-- The real samples of a fragment after optional DC removal, as pairs, and the estimate after them (R362). -/
def dcStage (dcen : Bool) (alpha avg : F32) (x : List Cplx) : List Cplx × F32 :=
  if dcen then
    let r := dcrRun alpha avg (interleave x)
    (pairs r.1, r.2)
  else (x, avg)

/-- What the real-sampled path makes of a fragment (R362): its outputs, the two residuals and the DC estimate. The
parity is 0 at every fragment, the sums are Scalar. -/
def realPath (P : Params) (coef : List F32) (dcen : Bool) (alpha avg : F32) (residI residQ : List F32) (x : List Cplx) :
    List Cplx × List F32 × List F32 × F32 :=
  let r := dcStage dcen alpha avg x
  let ab := signPairs false r.1
  (hilRails P.numerics .scalar coef residI residQ ab,
   nextResid residI (railI ab), nextResid residQ (railQ ab), r.2)

/-- The state after `DBI.NEXT` on an iterator with a fragment left (R360 to R362). -/
def dbiAdvance (s : State) (i : Inst) : State :=
  let u := s.dbi.at i
  let x := fragmentPairs s.params u.packed u.raw u.pos
  if u.mode then
    let d := s.dcr.at i
    let (y, ri, rq, avg) := realPath s.params (s.hil.at i).coef u.dcen d.alpha d.avg u.residI u.residQ x
    let s1 := s.putDbi i { u with pos := u.pos + 1, residI := ri, residQ := rq }
    let s2 := if u.dcen then s1.putDcr i { d with avg := avg } else s1
    s2.answer s.params.fragSize (stampLo u.ts :: stampHi u.ts :: interleave y)
  else
    (s.putDbi i { u with pos := u.pos + 1 }).answer s.params.fragSize (stampLo u.ts :: stampHi u.ts :: interleave x)

/-- `DBI.NEXT` (R360). -/
def execDbiNext (i : Inst) (s : State) : Host.Outcome State Fault Refusal :=
  let u := s.dbi.at i
  s.command ⟨10, 1, i⟩
    [instCheck s .dbi i, (!u.isOpen, .notConstructed), (decide (u.nfrag ≤ u.pos), .noSuchElement)]
    (dbiAdvance s i)

/-- `DBI.CLR` (R369): the buffer and residuals are discarded; on an iterator that is not open nothing is held. -/
def execDbiClr (i : Inst) (s : State) : Host.Outcome State Fault Refusal :=
  s.command ⟨10, 2, i⟩ [instCheck s .dbi i] ((s.putDbi i Dbi.reset).answer 0 [])

/-- `DBI.RESID` (R367): the two residuals, in order; nothing changes. -/
def execDbiResid (i : Inst) (s : State) : Host.Outcome State Fault Refusal :=
  let u := s.dbi.at i
  s.command ⟨10, 3, i⟩ [instCheck s .dbi i, (!u.isOpen, .notConstructed)]
    (s.answer (u.residI.length + u.residQ.length) (u.residI ++ u.residQ))

end Sys2Proof.Machine
end

