-- ==== Sys2Proof/Machine/FirUnit.lean ====
section
/-! DEFINITION. Sys2Proof/Machine/FirUnit.lean: `FIRR` and `FIRC`, the generic FIR on real and on complex samples
(spec/41_fir.md R160 to R165). -/

namespace Sys2Proof.Machine

/-- The checks of a generic FIR `LOAD`: length, then decimation factor (R160, R415). -/
def firLoadChecks (s : State) (c : List F32) (d : BitVec 10) : List (Bool × Status) :=
  [(decide (c.length = 0 ∨ c.length % 2 = 0 ∨ s.params.maxTaps < c.length), .invalidFilterLength),
   (decide (d = 0#10), .invalidArgument)]

/-- A freshly constructed generic FIR: residual of L - 1 zero samples (R160, R161). -/
def firLoaded {σ : Type} (v : Variant) (d : BitVec 10) (c : List F32) (zero : σ) : Fir σ :=
  ⟨true, v, d, c, List.replicate (c.length - 1) zero⟩

/-- The granularity D * lanes(IVAR) (R16, R402). -/
def firGran {σ : Type} (u : Fir σ) : Nat := u.decim.toNat * lanes u.ivar

/-- The residual zeroed, if the instance is constructed (R165). -/
def firCleared {σ : Type} (u : Fir σ) (zero : σ) : Fir σ :=
  if u.constructed then { u with resid := List.replicate u.resid.length zero } else u

/-- `FIRR.LOAD` (R160). -/
def execFirrLoad (i : Inst) (d : BitVec 10) (c : List F32) (s : State) : Host.Outcome State Fault Refusal :=
  s.command ⟨1, 0, i⟩ (instCheck s .firr i :: firLoadChecks s c d)
    ((s.putFirr i (firLoaded (s.latch 0) d c fzero)).answer 0 [])

/-- `FIRR.PROC` (R163). -/
def execFirrProc (i : Inst) (x : List F32) (s : State) : Host.Outcome State Fault Refusal :=
  let u := s.firr.at i
  let y := firRail s.params.numerics u.ivar u.coef u.decim.toNat u.resid x
  s.command ⟨1, 1, i⟩ (instCheck s .firr i :: procChecks s u.constructed x.length (firGran u))
    ((s.putFirr i { u with resid := nextResid u.resid x }).answer y.length y)

/-- `FIRR.CLR` (R165). -/
def execFirrClr (i : Inst) (s : State) : Host.Outcome State Fault Refusal :=
  s.command ⟨1, 2, i⟩ [instCheck s .firr i] ((s.putFirr i (firCleared (s.firr.at i) fzero)).answer 0 [])

/-- `FIRC.LOAD` (R161). -/
def execFircLoad (i : Inst) (d : BitVec 10) (c : List F32) (s : State) : Host.Outcome State Fault Refusal :=
  s.command ⟨2, 0, i⟩ (instCheck s .firc i :: firLoadChecks s c d)
    ((s.putFirc i (firLoaded (s.latch 1) d c (fzero, fzero))).answer 0 [])

/-- `FIRC.PROC` (R164). -/
def execFircProc (i : Inst) (x : List Cplx) (s : State) : Host.Outcome State Fault Refusal :=
  let u := s.firc.at i
  let y := firRails s.params.numerics u.ivar u.coef u.decim.toNat u.resid x
  s.command ⟨2, 1, i⟩ (instCheck s .firc i :: procChecks s u.constructed x.length (firGran u))
    ((s.putFirc i { u with resid := nextResid u.resid x }).answer y.length (interleave y))

/-- `FIRC.CLR` (R165). -/
def execFircClr (i : Inst) (s : State) : Host.Outcome State Fault Refusal :=
  s.command ⟨2, 2, i⟩ [instCheck s .firc i] ((s.putFirc i (firCleared (s.firc.at i) (fzero, fzero))).answer 0 [])

end Sys2Proof.Machine
end

