-- ==== Sys2Proof/Machine/FmDemod.lean ====
section
/-! DEFINITION. Sys2Proof/Machine/FmDemod.lean: `FMD`, the FM demodulator (spec/46_fmdemod.md R285 to R291). -/

namespace Sys2Proof.Machine

/-- The previous sample back at (+0.0, +0.0), if the instance is constructed (R291). -/
def fmdCleared (u : Fmd) : Fmd := if u.constructed then { u with prevI := fzero, prevQ := fzero } else u

/-- The unit after a block: its last sample kept (R290). -/
def fmdAdvanced (u : Fmd) (x : List Cplx) : Fmd :=
  let p := fmdLast (u.prevI, u.prevQ) x
  { u with prevI := p.1, prevQ := p.2 }

/-- `FMD.LOAD` (R286). -/
def execFmdLoad (i : Inst) (s : State) : Host.Outcome State Fault Refusal :=
  s.command ⟨9, 0, i⟩ [instCheck s .fmd i] ((s.putFmd i ⟨true, s.latch 8, fzero, fzero⟩).answer 0 [])

/-- `FMD.PROC` (R290). -/
def execFmdProc (i : Inst) (x : List Cplx) (s : State) : Host.Outcome State Fault Refusal :=
  let u := s.fmd.at i
  let y := fmdRun s.params (u.prevI, u.prevQ) x
  s.command ⟨9, 1, i⟩ (instCheck s .fmd i :: procChecks s u.constructed x.length (lanes u.ivar))
    ((s.putFmd i (fmdAdvanced u x)).answer y.length y)

/-- `FMD.CLR` (R291). -/
def execFmdClr (i : Inst) (s : State) : Host.Outcome State Fault Refusal :=
  s.command ⟨9, 2, i⟩ [instCheck s .fmd i] ((s.putFmd i (fmdCleared (s.fmd.at i))).answer 0 [])

end Sys2Proof.Machine
end

