-- ==== Sys2Proof/Machine/HalfBand.lean ====
section
/-! DEFINITION. Sys2Proof/Machine/HalfBand.lean: `HBR` and `HBC`, the half-band decimation by 2 on real and on complex
samples (spec/42_halfband.md R192 to R199). -/

namespace Sys2Proof.Machine

/-- The checks of a half-band `LOAD`: legal length (R192), then the precondition (R194); one status for both. -/
def hbLoadChecks (s : State) (c : List F32) : List (Bool × Status) :=
  [(decide (¬(3 ≤ c.length ∧ c.length ≤ s.params.maxTaps ∧ c.length % 4 = 3)), .invalidFilterLength),
   (!hbOk c, .invalidFilterLength)]

/-- A freshly constructed half-band filter: residual of L - 1 zero samples (R195). -/
def hbLoaded {σ : Type} (v : Variant) (c : List F32) (zero : σ) : Hb σ :=
  ⟨true, v, c, List.replicate (c.length - 1) zero⟩

/-- The granularity 2 * lanes(IVAR) (R16, R402). -/
def hbGran {σ : Type} (u : Hb σ) : Nat := 2 * lanes u.ivar

/-- The residual zeroed, if the instance is constructed (R199). -/
def hbCleared {σ : Type} (u : Hb σ) (zero : σ) : Hb σ :=
  if u.constructed then { u with resid := List.replicate u.resid.length zero } else u

/-- `HBR.LOAD` (R195). -/
def execHbrLoad (i : Inst) (c : List F32) (s : State) : Host.Outcome State Fault Refusal :=
  s.command ⟨3, 0, i⟩ (instCheck s .hbr i :: hbLoadChecks s c)
    ((s.putHbr i (hbLoaded (s.latch 2) c fzero)).answer 0 [])

/-- `HBR.PROC` (R197). -/
def execHbrProc (i : Inst) (x : List F32) (s : State) : Host.Outcome State Fault Refusal :=
  let u := s.hbr.at i
  let y := hbRail s.params.numerics u.ivar u.coef u.resid x
  s.command ⟨3, 1, i⟩ (instCheck s .hbr i :: procChecks s u.constructed x.length (hbGran u))
    ((s.putHbr i { u with resid := nextResid u.resid x }).answer y.length y)

/-- `HBR.CLR` (R199). -/
def execHbrClr (i : Inst) (s : State) : Host.Outcome State Fault Refusal :=
  s.command ⟨3, 2, i⟩ [instCheck s .hbr i] ((s.putHbr i (hbCleared (s.hbr.at i) fzero)).answer 0 [])

/-- `HBC.LOAD` (R195). -/
def execHbcLoad (i : Inst) (c : List F32) (s : State) : Host.Outcome State Fault Refusal :=
  s.command ⟨4, 0, i⟩ (instCheck s .hbc i :: hbLoadChecks s c)
    ((s.putHbc i (hbLoaded (s.latch 3) c (fzero, fzero))).answer 0 [])

/-- `HBC.PROC` (R198). -/
def execHbcProc (i : Inst) (x : List Cplx) (s : State) : Host.Outcome State Fault Refusal :=
  let u := s.hbc.at i
  let y := hbRails s.params.numerics u.ivar u.coef u.resid x
  s.command ⟨4, 1, i⟩ (instCheck s .hbc i :: procChecks s u.constructed x.length (hbGran u))
    ((s.putHbc i { u with resid := nextResid u.resid x }).answer y.length (interleave y))

/-- `HBC.CLR` (R199). -/
def execHbcClr (i : Inst) (s : State) : Host.Outcome State Fault Refusal :=
  s.command ⟨4, 2, i⟩ [instCheck s .hbc i] ((s.putHbc i (hbCleared (s.hbc.at i) (fzero, fzero))).answer 0 [])

end Sys2Proof.Machine
end

