-- ==== Sys2Proof/Machine/Hilbert.lean ====
section
/-! DEFINITION. Sys2Proof/Machine/Hilbert.lean: `HIL`, the Hilbert transformer (spec/43_hilbert.md R220 to R228). -/

namespace Sys2Proof.Machine

/-- The checks of `HIL.LOAD`: length 47, then the half-band precondition (R222, R225). -/
def hilLoadChecks (c : List F32) : List (Bool × Status) :=
  [(decide (c.length ≠ 47), .invalidFilterLength), (!hbOk c, .invalidFilterLength)]

/-- A freshly constructed Hilbert transformer: residuals of 11 and 23 zeros, parity 0 (R225). -/
def hilLoaded (v : Variant) (c : List F32) : Hil :=
  ⟨true, v, false, c, List.replicate 11 fzero, List.replicate 23 fzero⟩

/-- The unit after a block of input pairs (R227). -/
def hilAdvanced (u : Hil) (r : List Cplx) : Hil :=
  let ab := signPairs u.par r
  { u with
    residI := nextResid u.residI (railI ab)
    residQ := nextResid u.residQ (railQ ab)
    par := nextPar u.par r.length }

/-- Residuals zeroed and parity 0, if the instance is constructed (R228). -/
def hilCleared (u : Hil) : Hil :=
  if u.constructed then
    { u with residI := List.replicate 11 fzero, residQ := List.replicate 23 fzero, par := false }
  else u

/-- `HIL.LOAD` (R225). -/
def execHilLoad (i : Inst) (c : List F32) (s : State) : Host.Outcome State Fault Refusal :=
  s.command ⟨5, 0, i⟩ (instCheck s .hil i :: hilLoadChecks c) ((s.putHil i (hilLoaded (s.latch 4) c)).answer 0 [])

/-- `HIL.PROC` (R227): the granularity counts pairs. -/
def execHilProc (i : Inst) (r : List Cplx) (s : State) : Host.Outcome State Fault Refusal :=
  let u := s.hil.at i
  let y := hilRails s.params.numerics u.ivar u.coef u.residI u.residQ (signPairs u.par r)
  s.command ⟨5, 1, i⟩ (instCheck s .hil i :: procChecks s u.constructed r.length (lanes u.ivar))
    ((s.putHil i (hilAdvanced u r)).answer y.length (interleave y))

/-- `HIL.CLR` (R228). -/
def execHilClr (i : Inst) (s : State) : Host.Outcome State Fault Refusal :=
  s.command ⟨5, 2, i⟩ [instCheck s .hil i] ((s.putHil i (hilCleared (s.hil.at i))).answer 0 [])

end Sys2Proof.Machine
end

