-- ==== Sys2Proof/Machine/Oscillator.lean ====
section
/-! DEFINITION. Sys2Proof/Machine/Oscillator.lean: `NCO`, the complex oscillator, and `MIX`, the frequency mixer, which
runs on the oscillator of the same index (spec/45_nco_mixer.md R255 to R271). -/

namespace Sys2Proof.Machine

/-- The phase back at 0, if the instance is constructed (R263). -/
def ncoCleared (u : Nco) : Nco := if u.constructed then { u with phase := 0 } else u

/-- The oscillator after `n` samples (R262, R270). -/
def ncoAdvanced (u : Nco) (n : Nat) : Nco := { u with phase := nextPhase u.phase u.inc n }

/-- `NCO.LOAD` (R257): any increment, the phase at 0. -/
def execNcoLoad (i : Inst) (inc : Word) (s : State) : Host.Outcome State Fault Refusal :=
  s.command ⟨7, 0, i⟩ [instCheck s .nco i] ((s.putNco i ⟨true, s.latch 6, inc, 0⟩).answer 0 [])

/-- `NCO.GEN` (R262). -/
def execNcoGen (i : Inst) (n : BitVec 22) (s : State) : Host.Outcome State Fault Refusal :=
  let u := s.nco.at i
  let y := ncoRun s.params u.phase u.inc n.toNat
  s.command ⟨7, 1, i⟩ (instCheck s .nco i :: procChecks s u.constructed n.toNat (lanes u.ivar))
    ((s.putNco i (ncoAdvanced u n.toNat)).answer n.toNat (interleave y))

/-- `NCO.CLR` (R263). -/
def execNcoClr (i : Inst) (s : State) : Host.Outcome State Fault Refusal :=
  s.command ⟨7, 2, i⟩ [instCheck s .nco i] ((s.putNco i (ncoCleared (s.nco.at i))).answer 0 [])

/-- `MIX.LOAD` (R269): there must be an oscillator of this index; it need not be constructed. -/
def execMixLoad (i : Inst) (s : State) : Host.Outcome State Fault Refusal :=
  s.command ⟨8, 0, i⟩ [instCheck s .mix i, instCheck s .nco i] ((s.putMix i ⟨true, s.latch 7⟩).answer 0 [])

/-- `MIX.PROC` (R270): the mixer's granularity, the oscillator's phase. -/
def execMixProc (i : Inst) (x : List Cplx) (s : State) : Host.Outcome State Fault Refusal :=
  let u := s.mix.at i
  let o := s.nco.at i
  let y := mixRun s.params o.phase o.inc x
  s.command ⟨8, 1, i⟩
    (instCheck s .mix i :: (!u.constructed, .notConstructed) ::
      procChecks s o.constructed x.length (lanes u.ivar))
    ((s.putNco i (ncoAdvanced o x.length)).answer x.length (interleave y))

end Sys2Proof.Machine
end

