-- ==== Sys2Proof/Machine/SysUnit.lean ====
section
/-! DEFINITION. Sys2Proof/Machine/SysUnit.lean: `SYS.NOP`, `SYS.RDREG`, `SYS.WRREG`, `SYS.RESET` (spec/40_sys.md R141 to
R144). -/

namespace Sys2Proof.Machine

/-- `SYS.NOP` (R141): answers and changes nothing. -/
def execSysNop (s : State) : Host.Outcome State Fault Refusal := .next (s.answer 0 [])

/-- The register a triple (RKIND, INST, REGNO) names: its kind and its value, or none where one of the four address
checks of R142 fails (RKIND past 11; `SYS` with a non-zero instance; an instance past `N_INST`; no such register). -/
def addressed (s : State) (i : Inst) (rkind : BitVec 4) (regno : BitVec 8) : Option (Kind × Word) :=
  match kindOfCode rkind.toNat with
  | none => none
  | some k =>
    if s.hasInst k i then (readReg s k i regno.toNat).map fun v => (k, v) else none

/-- `SYS.RDREG` (R142). All four address checks raise `InvalidArgumentError`. -/
def execSysRdreg (i : Inst) (rkind : BitVec 4) (regno : BitVec 8) (s : State) : Host.Outcome State Fault Refusal :=
  match addressed s i rkind regno with
  | none => .next (s.raise .invalidArgument ⟨0, 1, i⟩)
  | some (_, v) => .next (s.answer 0 [v])

/-- `ERRFLAGS` with bits written as 1 cleared; bits 1 to 7 only (R24, R143). -/
def clearFlags (errflags value : Word) : Word := errflags &&& ~~~(value &&& 0xFE#32)

/-- A variant code that may be written: 0, 5, or 1 to `HW_MAX_VARIANT` (R26, R143). -/
def writableVariant (P : Params) (value : Nat) : Option Variant :=
  if 1 ≤ value ∧ value ≤ 4 ∧ P.hwMaxVariant < value then none else Variant.ofCode value

/-- A write of `SYS` register `regno` (R143). -/
def writeSys (s : State) (id : CmdId) (regno : Nat) (value : Word) : Host.Outcome State Fault Refusal :=
  if regno = 2 then
    .next ((s.putSys { s.sys with errflags := clearFlags s.sys.errflags value }).answer 0 [])
  else if h : 17 ≤ regno ∧ regno ≤ 25 then
    match writableVariant s.params value.toNat with
    | none => .next (s.raise .invalidArgument id)
    | some v => .next ((s.putSys { s.sys with variant := s.sys.variant.set (regno - 17) v (by omega) }).answer 0 [])
  else .next (s.raise .invalidArgument id)

/-- A write of `COP` register `regno`: `GAIN` and `FINC` of an opened channel, nothing else (R143). -/
def writeCop (s : State) (id : CmdId) (i : Inst) (regno : Nat) (value : Word) : Host.Outcome State Fault Refusal :=
  let q := s.cop.at i
  if regno = 4 then
    s.command id [(!q.opened, .notConstructed)] ((s.putCop i { q with gain := value }).answer 0 [])
  else if regno = 5 then
    s.command id [(!q.opened, .notConstructed)] ((s.putCop i { q with finc := value }).answer 0 [])
  else .next (s.raise .invalidArgument id)

/-- `SYS.WRREG` (R143): the address checks of R142, then the write; every other listed register is read-only. -/
def execSysWrreg (i : Inst) (rkind : BitVec 4) (regno : BitVec 8) (value : Word) (s : State) :
    Host.Outcome State Fault Refusal :=
  let id : CmdId := ⟨0, 2, i⟩
  match addressed s i rkind regno with
  | none => .next (s.raise .invalidArgument id)
  | some (.sys, _) => writeSys s id regno.toNat value
  | some (.cop, _) => writeCop s id i regno.toNat value
  | some (_, _) => .next (s.raise .invalidArgument id)

/-- `SYS.RESET` (R144): every unit in the reset state of R42; no notification. -/
def execSysReset (s : State) : Host.Outcome State Fault Refusal := .next (s.resetUnits.answer 0 [])

end Sys2Proof.Machine
end

