-- ==== Sys2Proof/Machine/Dispatch.lean ====
section
/-! DEFINITION. Sys2Proof/Machine/Dispatch.lean: one arm per command, each one direct call of its meaning. -/

namespace Sys2Proof.Machine

def exec (i : Instr) (s : State) : Host.Outcome State Fault Refusal :=
  match i with
  | .sysNop => Sys2Proof.Machine.execSysNop s
  | .sysRdreg a rkind regno => Sys2Proof.Machine.execSysRdreg a rkind regno s
  | .sysWrreg a rkind regno value => Sys2Proof.Machine.execSysWrreg a rkind regno value s
  | .sysReset => Sys2Proof.Machine.execSysReset s
  | .firrLoad a d c => Sys2Proof.Machine.execFirrLoad a d c s
  | .firrProc a x => Sys2Proof.Machine.execFirrProc a x s
  | .firrClr a => Sys2Proof.Machine.execFirrClr a s
  | .fircLoad a d c => Sys2Proof.Machine.execFircLoad a d c s
  | .fircProc a x => Sys2Proof.Machine.execFircProc a x s
  | .fircClr a => Sys2Proof.Machine.execFircClr a s
  | .hbrLoad a c => Sys2Proof.Machine.execHbrLoad a c s
  | .hbrProc a x => Sys2Proof.Machine.execHbrProc a x s
  | .hbrClr a => Sys2Proof.Machine.execHbrClr a s
  | .hbcLoad a c => Sys2Proof.Machine.execHbcLoad a c s
  | .hbcProc a x => Sys2Proof.Machine.execHbcProc a x s
  | .hbcClr a => Sys2Proof.Machine.execHbcClr a s
  | .hilLoad a c => Sys2Proof.Machine.execHilLoad a c s
  | .hilProc a r => Sys2Proof.Machine.execHilProc a r s
  | .hilClr a => Sys2Proof.Machine.execHilClr a s
  | .dcrLoad a alpha => Sys2Proof.Machine.execDcrLoad a alpha s
  | .dcrProc a x => Sys2Proof.Machine.execDcrProc a x s
  | .dcrClr a => Sys2Proof.Machine.execDcrClr a s
  | .ncoLoad a inc => Sys2Proof.Machine.execNcoLoad a inc s
  | .ncoGen a n => Sys2Proof.Machine.execNcoGen a n s
  | .ncoClr a => Sys2Proof.Machine.execNcoClr a s
  | .mixLoad a => Sys2Proof.Machine.execMixLoad a s
  | .mixProc a x => Sys2Proof.Machine.execMixProc a x s
  | .fmdLoad a => Sys2Proof.Machine.execFmdLoad a s
  | .fmdProc a x => Sys2Proof.Machine.execFmdProc a x s
  | .fmdClr a => Sys2Proof.Machine.execFmdClr a s
  | .dbiOpen a rawlen flags tsLo tsHi ri rq raw => Sys2Proof.Machine.execDbiOpen a rawlen flags tsLo tsHi ri rq raw s
  | .dbiNext a => Sys2Proof.Machine.execDbiNext a s
  | .dbiClr a => Sys2Proof.Machine.execDbiClr a s
  | .dbiResid a => Sys2Proof.Machine.execDbiResid a s
  | .copOpen a cap rec out => Sys2Proof.Machine.execCopOpen a cap rec out s
  | .copSubmit a tsLo tsHi x => Sys2Proof.Machine.execCopSubmit a tsLo tsHi x s
  | .copDrain a m => Sys2Proof.Machine.execCopDrain a m s
  | .copDetach a => Sys2Proof.Machine.execCopDetach a s

end Sys2Proof.Machine
end

