-- ==== Sys2Proof/Machine/Schedule.lean ====
section
/-! DEFINITION. Sys2Proof/Machine/Schedule.lean: which pending steps may come next, and how a packet is taken from `CMD`
and run (spec/20_memory.md R85 to R92; spec/70_reset_and_hazards.md R452). Two pending commands that share a key are
executed in arrival order; no other order holds. -/

namespace Sys2Proof.Machine

/-- What two commands may have in common that orders them (R85, R86). -/
inductive Key where
  /-- The commands of the system unit. -/
  | sys
  /-- The commands of one instance; `MIX[i]` counts as `NCO[i]`. -/
  | unit (k : BitVec 4) (i : Inst)
  /-- The producer side of a channel: `COP.SUBMIT`. -/
  | producer (c : Inst)
  /-- The consumer side of a channel: its other commands and register accesses. -/
  | consumer (c : Inst)
  /-- The coefficients of `HIL[i]`: written by `HIL[i].LOAD`, read by `DBI[i]`. -/
  | hilCoef (i : Inst)
  /-- A drain between its phases, which `SYS.RESET` waits for (R452). -/
  | draining
  deriving DecidableEq, Repr

/-- The key of the instance a kind number and an index name (R86). -/
def unitKey (k : BitVec 4) (i : Inst) : Key :=
  if k = 11#4 then .consumer i
  else if k = 8#4 then .unit 7#4 i
  else if k = 0#4 then .sys
  else .unit k i

/-- The keys of the instance a kind number and an index name; an illegal kind names none. -/
def unitKeys (k : BitVec 4) (i : Inst) : List Key := if 12 ≤ k.toNat then [] else [unitKey k i]

/-- The packet is a `DBI` command of instance `i` (R102). -/
def isDbi (i : Inst) (p : Packet) : Bool := kindOf p.header = 10#4 && instOf p.header = i

/-- `DCEN` as a pending `DBI` packet finds it (R86): an `OPEN`'s own flag; for another command the flag of the open
iterator, or of an `OPEN` still pending before it. -/
def dcenAt (s : State) (before : List Packet) (p : Packet) : Bool :=
  let i := instOf p.header
  if funcOf p.header = 0#2 then flagsDcen (p.body.getD 0 0)
  else (s.dbi.at i).dcen ||
    before.any fun b => isDbi i b && funcOf b.header = 0#2 && flagsDcen (b.body.getD 0 0)

/-- The keys of a pending packet, given the packets before it. -/
def keysOf (s : State) (before : List Packet) (p : Packet) : List Key :=
  let h := p.header
  let k := kindOf h
  let f := funcOf h
  let i := instOf h
  if k = 0#4 then
    if f = 1#2 || f = 2#2 then unitKeys (rkindOf h) i
    else if f = 3#2 then [.sys, .draining]
    else [.sys]
  else if k = 5#4 then
    if f = 0#2 then [.unit 5#4 i, .hilCoef i] else [.unit 5#4 i]
  else if k = 10#4 then
    [.unit 10#4 i, .hilCoef i] ++ if dcenAt s before p then [.unit 6#4 i] else []
  else if k = 11#4 then
    if f = 1#2 then [.producer i] else [.consumer i]
  else unitKeys k i

/-- The channels, in order. -/
def channels : List Inst := (List.range 16).map (BitVec.ofNat 4)

/-- The channels with a drain between its phases. -/
def drainingChannels (s : State) : List Inst := channels.filter fun c => (s.cop.at c).inflight.isSome

/-- The keys drains between their phases hold: the consumer side of each such channel is busy (R85, R312). -/
def heldByDrains (s : State) : List Key :=
  match drainingChannels s with
  | [] => []
  | cs => .draining :: cs.map .consumer

/-- The positions on `CMD` of the packets that may be executed next: those that share no key with an earlier packet
or with a drain between its phases. -/
def readyFrom (s : State) (held : List Key) (before : List Packet) (j : Nat) : List Packet → List Nat
  | [] => []
  | p :: ps =>
    let ks := keysOf s before p
    let later := readyFrom s (held ++ ks) (before ++ [p]) (j + 1) ps
    if ks.all (fun k => !held.contains k) then j :: later else later

/-- A step some agent may take next. -/
inductive Choice where
  /-- Phase 2 of the drain of channel `c`. -/
  | finish (c : Inst)
  /-- The command at position `j` of `CMD`. -/
  | issue (j : Nat)
  deriving DecidableEq, Repr

/-- Every step some agent may take next. -/
def choices (s : State) : List Choice :=
  (drainingChannels s).map .finish ++ (readyFrom s (heldByDrains s) [] 0 s.cmd).map .issue

/-- The status of a rejected packet (R72, R108). -/
def Reject.status : Reject → Status
  | .illegalHeader _ => .illegalCommand
  | .wrongCount _ => .invalidArgument

/-- The header of a rejected packet. -/
def Reject.header : Reject → Word
  | .illegalHeader h => h
  | .wrongCount h => h

/-- A packet executed: its command's meaning, or the error of a packet that is none (R140, R401). -/
def runPacket (s : State) (p : Packet) : Host.Outcome State Fault Refusal :=
  match decode p with
  | .ok i => exec i s
  | .error r => .next (s.raise (Reject.status r) (headerId (Reject.header r)))

/-- The packet at position `j` of `CMD` taken from it and executed. -/
def issueAt (s : State) (j : Nat) : Host.Outcome State Fault Refusal :=
  match s.cmd[j]? with
  | none => .next s
  | some p => runPacket { s with cmd := s.cmd.eraseIdx j } p

/-- A chosen step taken. -/
def takeChoice (s : State) : Choice → Host.Outcome State Fault Refusal
  | .finish c => .next (finishDrain s c)
  | .issue j => issueAt s j

/-- One step: nothing to do leaves the state as it is (R430); one possible step is taken; among several the free
arbiter picks (R86, I15; log entry 7). -/
def advance (s : State) : Host.Outcome State Fault Refusal :=
  match choices s with
  | [] => .next s
  | [c] => takeChoice s c
  | c :: cs => takeChoice { s with picks := s.picks + 1 } ((c :: cs).getD (Config.pick s.picks % (cs.length + 1)) c)

/-- No drain of any channel between its phases. -/
def noDrain (b : Bank Cop) : Bank Cop := channels.foldl (fun b c => b.put c { b.at c with inflight := none }) b

/-- `CMD` holding exactly one packet and no drain between its phases: the packet is the next step's command. -/
def State.onlyPacket (s : State) (p : Packet) : State :=
  { s with cmd := [p], cop := noDrain s.cop }

end Sys2Proof.Machine
end

