-- ==== Sys2Proof/Machine/Step.lean ====
section
/-! DEFINITION. Sys2Proof/Machine/Step.lean: one step of the CORE (spec/00_scope.md R18), and the placing of an
instruction where the next step takes it. -/

namespace Sys2Proof.Machine

/-- One atomic step of one agent: next state always (R5(5), R92). -/
def step (s : State) : Host.Outcome State Fault Refusal := advance s

/-- The state with the instruction whose bits are `w`, numbered as spec/opcode_table.json numbers them, as the one
packet on `CMD` (log entry 10). -/
def State.withFetchWord (s : State) (nbits w : Nat) : State := s.onlyPacket (tablePacket nbits w)

end Sys2Proof.Machine
end

