-- ==== Sys2Proof/WellFormed.lean ====
section
/-! DEFINITION. Sys2Proof/WellFormed.lean: which commands a packet can carry: payload lengths that fit their header
field (spec/30_encoding.md R104) and, for `DBI.OPEN`, payload parts of the lengths its operands announce (R105, R107). -/

namespace Sys2Proof

/-- A coefficient list fits the 12-bit `L` field (R104). -/
abbrev fitsL (c : List F32) : Prop := c.length < 2 ^ 12

/-- A block fits the 22-bit `N` or `LEN` field (R104). -/
abbrev fitsN {α : Type} (x : List α) : Prop := x.length < 2 ^ 22

/-- A command some packet carries. -/
def Instr.WellFormed : Instr → Bool
  | .firrLoad _ _ c | .fircLoad _ _ c | .hbrLoad _ c | .hbcLoad _ c | .hilLoad _ c => fitsL c
  | .firrProc _ x | .hbrProc _ x | .dcrProc _ x => fitsN x
  | .fircProc _ x | .hbcProc _ x | .hilProc _ x | .mixProc _ x | .fmdProc _ x | .copSubmit _ _ _ x => fitsN x
  | .dbiOpen _ rawlen flags _ _ ri rq raw =>
      ri.length = flagsLenI flags && rq.length = flagsLenQ flags && raw.length = rawWords rawlen.toNat
  | .sysNop | .sysRdreg .. | .sysWrreg .. | .sysReset | .firrClr _ | .fircClr _ | .hbrClr _ | .hbcClr _
  | .hilClr _ | .dcrLoad .. | .dcrClr _ | .ncoLoad .. | .ncoGen .. | .ncoClr _ | .mixLoad _ | .fmdLoad _
  | .fmdClr _ | .dbiNext _ | .dbiClr _ | .dbiResid _ | .copOpen .. | .copDrain .. | .copDetach _ => true

end Sys2Proof
end

