-- ==== Sys2Proof/Safety.lean ====
section
/-! DEFINITION. Sys2Proof/Safety.lean: the terms claims use: the invariant of the machine (spec/10_state.md R29 to R39,
R44), which instance a command may write and read (R20), which packets are ordered (R85, R86), and how
much work is left on `CMD` (spec/20_memory.md R92). -/

namespace Sys2Proof.Machine

/-- A latched variant: never `Uncalibrated`, never wider than the hardware (R147). -/
abbrev IvarOk (P : Params) (v : Variant) : Prop := v ≠ .uncalibrated ∧ v.code ≤ P.hwMaxVariant

/-- A generic FIR instance: constructed with a legal array, factor and residual length, or untouched since reset
(R30, R160). -/
abbrev FirOk {σ : Type} (P : Params) (u : Fir σ) : Prop :=
  if u.constructed then
    u.coef.length % 2 = 1 ∧ u.coef.length ≤ P.maxTaps ∧ u.decim ≠ 0#10 ∧ u.resid.length = u.coef.length - 1 ∧
      IvarOk P u.ivar
  else u = Fir.reset

/-- A half-band instance (R31, R192, R194). -/
abbrev HbOk {σ : Type} (P : Params) (u : Hb σ) : Prop :=
  if u.constructed then
    3 ≤ u.coef.length ∧ u.coef.length ≤ P.maxTaps ∧ u.coef.length % 4 = 3 ∧ hbOk u.coef = true ∧
      u.resid.length = u.coef.length - 1 ∧ IvarOk P u.ivar
  else u = Hb.reset

/-- A Hilbert instance (R32, R222, R223). -/
abbrev HilOk (P : Params) (u : Hil) : Prop :=
  if u.constructed then
    u.coef.length = 47 ∧ hbOk u.coef = true ∧ u.residI.length = 11 ∧ u.residQ.length = 23 ∧ IvarOk P u.ivar
  else u = Hil.reset

/-- A DC removal instance (R33). -/
abbrev DcrOk (P : Params) (u : Dcr) : Prop := if u.constructed then IvarOk P u.ivar else u = Dcr.reset

/-- An oscillator instance (R34). -/
abbrev NcoOk (P : Params) (u : Nco) : Prop := if u.constructed then IvarOk P u.ivar else u = Nco.reset

/-- A mixer instance (R35). -/
abbrev MixOk (P : Params) (u : Mix) : Prop := if u.constructed then IvarOk P u.ivar else u = Mix.reset

/-- A demodulator instance (R36). -/
abbrev FmdOk (P : Params) (u : Fmd) : Prop := if u.constructed then IvarOk P u.ivar else u = Fmd.reset

/-- An iterator, with the Hilbert and DC removal instances of its index (R37, R353, R362): whole fragments, `POS` in
0..`NFRAG`, residuals of the mode's lengths, its partners constructed. -/
abbrev DbiOk (P : Params) (u : Dbi) (h : Hil) (d : Dcr) : Prop :=
  if u.isOpen then
    u.raw.length = u.nfrag * (P.fragSize * pairStride u.packed) ∧ u.raw.length ≤ P.maxRaw ∧ u.pos ≤ u.nfrag ∧
      (u.residI.length, u.residQ.length) = wantResid u.mode ∧
      (u.packed = true → P.sampleBits = 12) ∧ (u.dcen = true → u.mode = true) ∧
      (u.mode = true → h.constructed = true) ∧ (u.dcen = true → d.constructed = true)
  else u = Dbi.reset

/-- A channel (R38, R39): 1 ≤ `RECOVERY` ≤ `CAPACITY` ≤ `MAX_QCAP`, `OCC` ≤ `CAPACITY`, `OVF` only with `OCC` ≥
`RECOVERY`, `FILL` < `OUTBLK`; a channel that is not opened is as at reset and has no drain in progress. -/
abbrev CopOk (P : Params) (q : Cop) : Prop :=
  if q.opened then
    1 ≤ q.recovery.toNat ∧ q.recovery.toNat ≤ q.capacity.toNat ∧ q.capacity.toNat ≤ P.maxQcap ∧
      1 ≤ q.outblk.toNat ∧ q.outblk.toNat ≤ P.maxBlock ∧
      q.queue.length ≤ q.capacity.toNat ∧ (q.ovf = true → q.recovery.toNat ≤ q.queue.length) ∧
      q.asm.length < q.outblk.toNat ∧ (∀ b ∈ q.queue, b.data.length ≤ P.maxBlock) ∧
      (∀ b ∈ q.inflight.getD [], b.data.length ≤ P.maxBlock)
  else q = Cop.reset

/-- The `SYS` registers (R25 to R28): only bits 1 to 7 of `ERRFLAGS`, `LASTERR[31:18]` zero, every `VARIANT[k]` a value
that may be written. -/
abbrev SysOk (P : Params) (u : Sys) : Prop :=
  u.errflags &&& ~~~0xFE#32 = 0#32 ∧ u.lasterr.toNat < 2 ^ 18 ∧
    ∀ k : Fin 9, u.variant[k] = .uncalibrated ∨ u.variant[k].code ≤ P.hwMaxVariant

/-- Every instance at or past `N_INST` is as at reset (R6, R101). -/
abbrev PastEndOk (s : State) (i : Inst) : Prop :=
  (s.hasInst .firr i = false → s.firr.at i = Fir.reset) ∧ (s.hasInst .firc i = false → s.firc.at i = Fir.reset) ∧
  (s.hasInst .hbr i = false → s.hbr.at i = Hb.reset) ∧ (s.hasInst .hbc i = false → s.hbc.at i = Hb.reset) ∧
  (s.hasInst .hil i = false → s.hil.at i = Hil.reset) ∧ (s.hasInst .dcr i = false → s.dcr.at i = Dcr.reset) ∧
  (s.hasInst .nco i = false → s.nco.at i = Nco.reset) ∧ (s.hasInst .mix i = false → s.mix.at i = Mix.reset) ∧
  (s.hasInst .fmd i = false → s.fmd.at i = Fmd.reset) ∧ (s.hasInst .dbi i = false → s.dbi.at i = Dbi.reset) ∧
  (s.hasInst .cop i = false → s.cop.at i = Cop.reset)

/-- The invariant of the machine: legal parameters, legal `SYS` registers, every instance legal. -/
structure State.Inv (s : State) : Prop where
  params  : s.params.Ok
  sys     : SysOk s.params s.sys
  firr    : ∀ i, FirOk s.params (s.firr.at i)
  firc    : ∀ i, FirOk s.params (s.firc.at i)
  hbr     : ∀ i, HbOk s.params (s.hbr.at i)
  hbc     : ∀ i, HbOk s.params (s.hbc.at i)
  hil     : ∀ i, HilOk s.params (s.hil.at i)
  dcr     : ∀ i, DcrOk s.params (s.dcr.at i)
  nco     : ∀ i, NcoOk s.params (s.nco.at i)
  mix     : ∀ i, MixOk s.params (s.mix.at i)
  fmd     : ∀ i, FmdOk s.params (s.fmd.at i)
  dbi     : ∀ i, DbiOk s.params (s.dbi.at i) (s.hil.at i) (s.dcr.at i)
  cop     : ∀ i, CopOk s.params (s.cop.at i)
  pastEnd : ∀ i, PastEndOk s i

/-! Isolation (R20). -/

/-- The two states hold the same in slot `i` of a kind; for `sys`, the same `SYS` registers. -/
def SameSlot (s t : State) (k : Kind) (i : Inst) : Prop :=
  match k with
  | .sys => s.sys = t.sys
  | .firr => s.firr.at i = t.firr.at i
  | .firc => s.firc.at i = t.firc.at i
  | .hbr => s.hbr.at i = t.hbr.at i
  | .hbc => s.hbc.at i = t.hbc.at i
  | .hil => s.hil.at i = t.hil.at i
  | .dcr => s.dcr.at i = t.dcr.at i
  | .nco => s.nco.at i = t.nco.at i
  | .mix => s.mix.at i = t.mix.at i
  | .fmd => s.fmd.at i = t.fmd.at i
  | .dbi => s.dbi.at i = t.dbi.at i
  | .cop => s.cop.at i = t.cop.at i

/-- The unit instances a command may write (R20): its own; for `MIX.PROC` the oscillator it advances; for `DBI.NEXT`
also the DC estimate. `SYS.RESET`, which writes them all, is not covered. -/
def writes : Instr → List (Kind × Inst)
  | .sysNop | .sysRdreg .. | .sysReset => []
  | .sysWrreg i rkind _ _ => if rkind = 11#4 then [(.cop, i)] else []
  | .firrLoad i _ _ | .firrProc i _ | .firrClr i => [(.firr, i)]
  | .fircLoad i _ _ | .fircProc i _ | .fircClr i => [(.firc, i)]
  | .hbrLoad i _ | .hbrProc i _ | .hbrClr i => [(.hbr, i)]
  | .hbcLoad i _ | .hbcProc i _ | .hbcClr i => [(.hbc, i)]
  | .hilLoad i _ | .hilProc i _ | .hilClr i => [(.hil, i)]
  | .dcrLoad i _ | .dcrProc i _ | .dcrClr i => [(.dcr, i)]
  | .ncoLoad i _ | .ncoGen i _ | .ncoClr i => [(.nco, i)]
  | .mixLoad i => [(.mix, i)]
  | .mixProc i _ => [(.nco, i)]
  | .fmdLoad i | .fmdProc i _ | .fmdClr i => [(.fmd, i)]
  | .dbiOpen i .. | .dbiClr i | .dbiResid i => [(.dbi, i)]
  | .dbiNext i => [(.dbi, i), (.dcr, i)]
  | .copOpen i .. | .copSubmit i .. | .copDrain i _ | .copDetach i => [(.cop, i)]

/-- The unit instances a command may read beyond those it may write (R20): the mixer's own slot, the partners of a
`DBI` command, the target of a register read. -/
def readsToo : Instr → List (Kind × Inst)
  | .sysRdreg i rkind _ | .sysWrreg i rkind _ _ =>
    match kindOfCode rkind.toNat with
    | some k => [(k, i)]
    | none => []
  | .mixProc i _ => [(.mix, i)]
  | .dbiOpen i .. | .dbiNext i => [(.hil, i), (.dcr, i)]
  | _ => []

/-! Order on `CMD` (R85, R86, R90, R452). Packets are told apart by their header fields and `DBI.OPEN`'s flags. -/

/-- The kind number and the instance a packet is addressed to: those of its header, or, for a register access, those
the access names (R85, R142; for accesses other than to `GAIN` and `FINC` DEDUCED, log entry 8). -/
def addressee (h : Word) : BitVec 4 × Inst :=
  if kindOf h = 0#4 ∧ (funcOf h = 1#2 ∨ funcOf h = 2#2) then (rkindOf h, instOf h) else (kindOf h, instOf h)

/-- A packet of the producer side of its channel: `COP.SUBMIT` (R85). -/
abbrev IsSubmit (h : Word) : Prop := kindOf h = 11#4 ∧ funcOf h = 1#2

/-- A packet of the consumer side of channel `c`: every other command or register access addressed to it (R85; log
entry 8). -/
abbrev ConsumerSide (c : Inst) (h : Word) : Prop := addressee h = (11#4, c) ∧ ¬IsSubmit h

/-- Two packets addressed to one instance, on a channel to one side of it; the commands of the system unit count as
addressed to one instance (R85; log entry 8). -/
abbrev SameTarget (p q : Word) : Prop :=
  (addressee p).1 = (addressee q).1 ∧
  ((addressee p).1 = 0#4 ∨
    (addressee p).1.toNat ≤ 11 ∧ (addressee p).2 = (addressee q).2 ∧ (IsSubmit p ↔ IsSubmit q))

/-- `DCEN` as the `DBI` packet at position `k` of `CMD` finds it: an `OPEN`'s own flag; for another command the flag of
the open iterator, or of an `OPEN` of the same instance pending before it (R86; log entry 8). -/
def DcenFor (s : State) (k : Nat) (p : Packet) : Prop :=
  if funcOf p.header = 0#2 then flagsDcen (p.body.getD 0 0) = true
  else (s.dbi.at (instOf p.header)).dcen = true ∨
    ∃ (m : Nat) (o : Packet), m < k ∧ s.cmd[m]? = some o ∧ kindOf o.header = 10#4 ∧ funcOf o.header = 0#2 ∧
      instOf o.header = instOf p.header ∧ flagsDcen (o.body.getD 0 0) = true

/-- The packets at positions `j` and `k` are of one of the pairs of instances that share state: `MIX[i]` and `NCO[i]`;
`DBI[i]` and `HIL[i].LOAD`; with `DCEN`, `DBI[i]` and `DCR[i]` (R20, R86). -/
def SharedPair (s : State) (j : Nat) (p : Packet) (k : Nat) (q : Packet) : Prop :=
  (addressee p.header).2 = (addressee q.header).2 ∧
  (((addressee p.header).1 = 8#4 ∧ (addressee q.header).1 = 7#4) ∨
    ((addressee p.header).1 = 7#4 ∧ (addressee q.header).1 = 8#4) ∨
    (kindOf p.header = 10#4 ∧ kindOf q.header = 5#4 ∧ funcOf q.header = 0#2) ∨
    (kindOf p.header = 5#4 ∧ funcOf p.header = 0#2 ∧ kindOf q.header = 10#4) ∨
    (kindOf p.header = 10#4 ∧ (addressee q.header).1 = 6#4 ∧ DcenFor s j p) ∨
    ((addressee p.header).1 = 6#4 ∧ kindOf q.header = 10#4 ∧ DcenFor s k q))

/-- A packet that a drain between its phases holds up: one of the consumer side of its channel, or `SYS.RESET`
(R85, R312, R452). -/
def WaitsForDrain (s : State) (h : Word) : Prop :=
  ∃ c : Inst, (s.cop.at c).inflight.isSome = true ∧ (ConsumerSide c h ∨ (kindOf h = 0#4 ∧ funcOf h = 3#2))

/-! Progress (R92). -/

/-- Steps left until every packet now on `CMD` is answered: two for each packet, one for each drain between its
phases. -/
def workLeft (s : State) : Nat := 2 * s.cmd.length + (drainingChannels s).length

/-- The status byte of a response word (R106). -/
def statusByte (w : Word) : Nat := w.toNat % 256

/-! Runs. -/

/-- The state after `n` steps of the machine; a step always goes on (R92). -/
def State.steps : Nat → State → State
  | 0, s => s
  | n + 1, s =>
    match step s with
    | .next t => t.steps n
    | _ => s

/-- Commands executed one after another, each to its completion in one step; `COP.DRAIN` is not of this kind. -/
def State.run (s : State) : List Instr → State
  | [] => s
  | i :: is =>
    match exec i s with
    | .next t => t.run is
    | _ => s

/-- Drains of channel `c` one after another, each with both its phases (R312). -/
def State.drains (s : State) (c : Inst) : List (BitVec 22) → State
  | [] => s
  | m :: ms =>
    match exec (.copDrain c m) s with
    | .next t => (finishDrain t c).drains c ms
    | _ => s

/-- The payload words of the responses that `t` has and `s` has not, in order: what the commands between them answered
after their response words (R106). -/
def outputs (s t : State) : List Word := (t.rsp.drop s.rsp.length).flatMap List.tail

/-- Chunking invariance of a command that takes a block (R166): from state `s`, any two ways of cutting one input into
legal blocks give the same output words and leave states that are the same in the sense given. -/
def ChunkLaw {α : Type} (proc : List α → Instr) (legal : Nat → Prop) (same : State → State → Prop) (s : State) : Prop :=
  ∀ bs cs : List (List α), (∀ b ∈ bs ++ cs, legal b.length) → bs.flatten = cs.flatten →
    outputs s (s.run (bs.map proc)) = outputs s (s.run (cs.map proc)) ∧
      same (s.run (bs.map proc)) (s.run (cs.map proc))

/-- A block that a unit of granularity `gran` takes (R16, R402). -/
abbrev LegalBlock (P : Params) (gran n : Nat) : Prop := n ≤ P.maxBlock ∧ n % gran = 0

/-! Coefficients and drained blocks. -/

/-- The half-band precondition as R194 writes it: centre tap 0.5, every other odd tap a zero, even taps equal to their
mirror images (IEEE equality, of which `SpecialValuesOfSumsAndProducts` says what it is). -/
abbrev HalfBandShape (c : List F32) : Prop :=
  elem c ((c.length - 1) / 2) = 0x3F000000#32 ∧
  (∀ k < c.length, k % 2 = 1 → k ≠ (c.length - 1) / 2 → elem c k = 0x00000000#32 ∨ elem c k = 0x80000000#32) ∧
  (∀ k < (c.length - 1) / 2, k % 2 = 0 → feq (elem c k) (elem c (c.length - 1 - k)) = true)

/-- The blocks of a drain processed one after another: the channel after them and the output blocks completed
(R313). -/
def processAll (P : Params) (q : Cop) : List Block → Cop × List OutBlock
  | [] => (q, [])
  | b :: bs =>
    let r := processBlock P q b
    let r' := processAll P r.1 bs
    (r'.1, r.2 ++ r'.2)

/-- The samples of a block as they reach the reassembly buffer: corrected, then times the gain
(R316, R319). -/
def stageSamples (P : Params) (q : Cop) (b : Block) : List Cplx := applyGain q.gain (correct P q b.data)

/-! Reals. -/

/-- A binary32 as a rational: its units of 2^-149 (R9). -/
def ratVal (a : F32) : Rat := (units a : Rat) / (2 ^ 149 : Nat)

end Sys2Proof.Machine
end

