-- ==== Sys2Proof/Certificates/Slice0/Obligations.lean ====
section
/-! DEFINITION. Sys2Proof/Certificates/Slice0/Obligations.lean: the statements for the provers, from the numbered rules
of spec/. A response word is `STATUS` in [7:0] and `INFO` in [31:8] (R106): `responseWord .ok n` has status 0 and
`INFO` = n. `s.raise e id` is the error of R401, which `RaiseChangesNothingElse` says in full. -/

open Sys2Proof Sys2Proof.Machine

/-! Encoding. -/

/-- Example packets of the rules and of their vectors decode to the commands they stand for (R141 to R331). -/
def Obligations.SpecPacketsDecode : Prop :=
  decode ⟨0x00000000, []⟩ = .ok .sysNop ∧
  decode ⟨0x04000013, []⟩ = .ok (.sysRdreg 0 0 0x13) ∧
  decode ⟨0x08000014, [2]⟩ = .ok (.sysWrreg 0 0 0x14 2) ∧
  decode ⟨0x10402003, [0x3F800000, 0x40000000, 0x40400000]⟩ =
    .ok (.firrLoad 1 2 [0x3F800000, 0x40000000, 0x40400000]) ∧
  decode ⟨0x24000002, [0x3F800000, 0x41200000, 0x40000000, 0x41A00000]⟩ =
    .ok (.fircProc 0 [(0x3F800000, 0x41200000), (0x40000000, 0x41A00000)]) ∧
  decode ⟨0x30000003, [0x3E800000, 0x3F000000, 0x3E800000]⟩ = .ok (.hbrLoad 0 [0x3E800000, 0x3F000000, 0x3E800000]) ∧
  decode ⟨0x48800000, []⟩ = .ok (.hbcClr 2) ∧
  decode ⟨0x58400000, []⟩ = .ok (.hilClr 1) ∧
  decode ⟨0x60000000, [0x3F000000]⟩ = .ok (.dcrLoad 0 0x3F000000) ∧
  decode ⟨0x74000004, []⟩ = .ok (.ncoGen 0 4) ∧
  decode ⟨0x80000000, []⟩ = .ok (.mixLoad 0) ∧
  decode ⟨0x94000001, [0x3F800000, 0x00000000]⟩ = .ok (.fmdProc 0 [(0x3F800000, 0x00000000)]) ∧
  decode ⟨0xA0000008, [0x00000000, 0x22334455, 0x00000011, 0x04000C00, 0x0FFF0000]⟩ =
    .ok (.dbiOpen 0 8 0 0x22334455 0x11 [] [] [0x04000C00, 0x0FFF0000]) ∧
  decode ⟨0xB4000002, [0x64, 0, 0x3F800000, 0x40000000, 0x40400000, 0x40800000]⟩ =
    .ok (.copSubmit 0 0x64 0 [(0x3F800000, 0x40000000), (0x40400000, 0x40800000)]) ∧
  decode ⟨0xB8000005, []⟩ = .ok (.copDrain 0 5)

/-- The packet of every well-formed command decodes to that command (R100 to R107). -/
def Obligations.DecodeEncode : Prop :=
  ∀ i : Instr, i.WellFormed = true → decode (encode i) = .ok i

/-- Every packet that decodes is the packet of the command it decodes to, and that command is well-formed: no bit of a
packet is ignored (R100 to R107). -/
def Obligations.EncodeDecode : Prop :=
  ∀ (p : Packet) (i : Instr), decode p = .ok i → i.WellFormed = true ∧ encode i = p

/-- The opcode table decides decoding: a header is illegal exactly when it selects no row, it selects at most one row, and
a packet whose header selects a row is that row's command when it has the words its header and operands call for, and
is refused with a wrong count otherwise (R72, R103, R108, R110). -/
def Obligations.TableDecidesDecoding : Prop :=
  (∀ p : Packet, decode p = .error (.illegalHeader p.header) ↔ ∀ r ∈ opRows, r.selects p.header = false) ∧
  (∀ (h : Word) (r₁ r₂ : OpRow), r₁ ∈ opRows → r₂ ∈ opRows → r₁.selects h = true → r₂.selects h = true → r₁ = r₂) ∧
  (∀ (p : Packet) (r : OpRow), r ∈ opRows → r.selects p.header = true →
    if p.body.length = bodyWords p.header (p.body.getD 0 0) then
      ∃ i, decode p = .ok i ∧ i.mnemonic = r.mnemonic
    else decode p = .error (.wrongCount p.header))

/-! The step. -/

/-- A step runs the decoded command: where packet `j` is the one possible step and decodes to a command, the step takes
the packet from `CMD` and is that command's meaning; one packet on `CMD` with no drain between its phases is such a
step; and the one possible phase 2 of a drain is taken (R18, R312). -/
def Obligations.StepRunsTheDecodedCommand : Prop :=
  (∀ (s : State) (j : Nat) (p : Packet) (i : Instr), choices s = [.issue j] → s.cmd[j]? = some p → decode p = .ok i →
    step s = exec i { s with cmd := s.cmd.eraseIdx j }) ∧
  (∀ (s : State) (p : Packet), s.cmd = [p] → drainingChannels s = [] → choices s = [.issue 0]) ∧
  (∀ (s : State) (c : Inst), choices s = [.finish c] → step s = .next (finishDrain s c))

/-- A packet that is no command is taken from `CMD` and answered with status 4 (illegal header) or 3 (wrong word count),
and recorded; nothing else changes (R72, R108, R401). -/
def Obligations.StepAnswersARejectedPacket : Prop :=
  ∀ (s : State) (p : Packet) (r : Reject), s.cmd = [p] → drainingChannels s = [] → decode p = .error r →
    let code : Nat := match r with | .illegalHeader _ => 4 | .wrongCount _ => 3
    step s = .next { s with
      cmd := []
      rsp := s.rsp ++ [[BitVec.ofNat 32 code]]
      sys := { s.sys with
        errflags := s.sys.errflags ||| BitVec.ofNat 32 (2 ^ code)
        lasterr := BitVec.ofNat 32 (code + 2 ^ 8 * (kindOf p.header).toNat + 2 ^ 12 * (funcOf p.header).toNat +
          2 ^ 14 * (instOf p.header).toNat) } }

/-- With no command pending and no drain between its phases the machine keeps its state; otherwise a step is one of the
possible steps, and only the arbiter's counter shows that there was a choice (R430, R86; the arbiter is the model's, log
entry 7). -/
def Obligations.StepTakesAPossibleStep : Prop :=
  (∀ s : State, s.cmd = [] → drainingChannels s = [] → step s = .next s) ∧
  (∀ s : State, s.cmd ≠ [] ∨ drainingChannels s ≠ [] →
    ∃ c ∈ choices s, ∃ k : Nat, (k = s.picks ∨ k = s.picks + 1) ∧ step s = takeChoice { s with picks := k } c)

/-- Program order per instance: a packet never overtakes an earlier one addressed to the same instance, nor, on a channel,
one of the same side; register accesses count for the instance they address, so a write of `GAIN` or `FINC` keeps its
place among `COP.OPEN`, `COP.DRAIN` and `COP.DETACH` of its channel (R85, R90), and the commands of the system unit keep
theirs among themselves. While a drain is between its phases nothing of the consumer side of its channel is executed, and
no `SYS.RESET` (R90, R452). That accesses to other registers, and the system unit's commands, are ordered so is DEDUCED
(log entry 8). -/
def Obligations.SameInstanceInOrder : Prop :=
  (∀ (s : State) (j k : Nat) (p q : Packet), j < k → s.cmd[j]? = some p → s.cmd[k]? = some q →
    SameTarget p.header q.header → Choice.issue k ∉ choices s) ∧
  (∀ (s : State) (k : Nat) (q : Packet), s.cmd[k]? = some q → WaitsForDrain s q.header → Choice.issue k ∉ choices s)

/-- Between instances: the pairs that share state are ordered, `MIX[i]` with `NCO[i]`, `DBI[i]` with `HIL[i].LOAD` and,
with `DCEN`, `DBI[i]` with `DCR[i]`. There is no other order: a packet of any kind that no drain holds up, and that
shares neither its instance nor such a pair with an earlier one, may come next, whatever stands before it on `CMD`; and
so may phase 2 of every drain between its phases (R86). That an `OPEN` still pending counts for `DCEN`, and that a register
access counts for the instance it addresses, is DEDUCED (log entry 8). -/
def Obligations.SharedPairsOrderedOthersFree : Prop :=
  (∀ (s : State) (j k : Nat) (p q : Packet), j < k → s.cmd[j]? = some p → s.cmd[k]? = some q →
    SharedPair s j p k q → Choice.issue k ∉ choices s) ∧
  (∀ (s : State) (k : Nat) (q : Packet), s.cmd[k]? = some q → ¬WaitsForDrain s q.header →
    (∀ (j : Nat) (p : Packet), j < k → s.cmd[j]? = some p →
      ¬SameTarget p.header q.header ∧ ¬SharedPair s j p k q) →
    Choice.issue k ∈ choices s) ∧
  (∀ (s : State) (c : Inst), (s.cop.at c).inflight.isSome = true → Choice.finish c ∈ choices s)

/-- Every command terminates and is answered exactly once: after `workLeft s` steps `CMD` is empty, no drain is between
its phases, and one response has been emitted for each packet and each drain that was in progress (R92, R71). -/
def Obligations.EveryPacketAnsweredOnce : Prop :=
  ∀ s : State, (s.steps (workLeft s)).cmd = [] ∧ drainingChannels (s.steps (workLeft s)) = [] ∧
    (s.steps (workLeft s)).rsp.length = s.rsp.length + s.cmd.length + (drainingChannels s).length

/-- No command and no step traps, hangs or is undefined: each answers a next state, in every state (R92). What has been
emitted stays emitted, and the parameters are constants (R40, R6). -/
def Obligations.EveryStepGoesOn : Prop :=
  (∀ (i : Instr) (s : State), ∃ t, exec i s = .next t) ∧
  (∀ s : State, ∃ t, step s = .next t ∧ t.params = s.params ∧ s.rsp <+: t.rsp ∧ s.notif <+: t.notif)

/-! Errors and isolation. -/

/-- What a raise does, and that it does nothing else: whenever a packet is answered with a non-zero status, the response
is that status word alone, the sticky bit is set, `LASTERR` is written from the header's own fields, and the rest of the
state is as it was (R401). -/
def Obligations.RaiseChangesNothingElse : Prop :=
  ∀ (s t : State) (p : Packet) (w : Word) (ws : List Word), runPacket s p = .next t → t.rsp = s.rsp ++ [w :: ws] →
    statusByte w ≠ 0 →
    ws = [] ∧ w = BitVec.ofNat 32 (statusByte w) ∧ 1 ≤ statusByte w ∧ statusByte w ≤ 7 ∧
    t = { s with
      rsp := s.rsp ++ [[w]]
      sys := { s.sys with
        errflags := s.sys.errflags ||| BitVec.ofNat 32 (2 ^ statusByte w)
        lasterr := BitVec.ofNat 32 (statusByte w + 2 ^ 8 * (kindOf p.header).toNat +
          2 ^ 12 * (funcOf p.header).toNat + 2 ^ 14 * (instOf p.header).toNat) } }

/-- The error record is sticky: a packet clears a bit of `ERRFLAGS` only if it is `SYS.RESET` or a write of 1 to it, and
sets one exactly when it ends with that status code; the processing of a drain clears none and sets bit 6 exactly when
a block of the drain faults (R27). -/
def Obligations.ErrorFlagsAreSticky : Prop :=
  (∀ (s t : State) (p : Packet) (c : Nat), 1 ≤ c → c ≤ 7 → runPacket s p = .next t →
    (s.sys.errflags.getLsbD c = true → t.sys.errflags.getLsbD c = false →
      decode p = .ok .sysReset ∨ ∃ v : Word, decode p = .ok (.sysWrreg 0 0 2 v) ∧ v.getLsbD c = true) ∧
    (t.rsp = s.rsp ++ [[BitVec.ofNat 32 c]] → t.sys.errflags.getLsbD c = true) ∧
    (s.sys.errflags.getLsbD c = false → t.sys.errflags.getLsbD c = true →
      t.rsp = s.rsp ++ [[BitVec.ofNat 32 c]])) ∧
  (∀ (s : State) (c : Inst), (finishDrain s c).sys.errflags =
    if ((s.cop.at c).inflight.getD []).any (blockFault s.params) then s.sys.errflags ||| 0x40#32
    else s.sys.errflags)

/-- Instances are independent, as written: no command but `SYS.RESET` changes the state of a unit instance other than
those of `writes`: its own, for `MIX.PROC` the oscillator of the same index, for `DBI.NEXT` also the DC estimate of the
same index; and phase 2 of a drain changes no instance but its channel (R20). -/
def Obligations.OtherInstancesUntouched : Prop :=
  (∀ (i : Instr) (s t : State) (k : Kind) (j : Inst), i ≠ .sysReset → k ≠ .sys → (k, j) ∉ writes i →
    exec i s = .next t → SameSlot s t k j) ∧
  (∀ (s : State) (c : Inst) (k : Kind) (j : Inst), k ≠ .sys → (k, j) ≠ (.cop, c) → SameSlot s (finishDrain s c) k j)

/-- Instances are independent, as read: two states that agree on the parameters, the `SYS` registers and the instances a
command may read or write give the same response, the same notifications and the same new state of those instances,
whatever the rest of the machine holds (R20). -/
def Obligations.NoInfluenceFromElsewhere : Prop :=
  ∀ (i : Instr) (s₁ s₂ t₁ t₂ : State), i ≠ .sysReset → s₁.params = s₂.params → s₁.sys = s₂.sys →
    (∀ x ∈ writes i ++ readsToo i, SameSlot s₁ s₂ x.1 x.2) → exec i s₁ = .next t₁ → exec i s₂ = .next t₂ →
    t₁.sys = t₂.sys ∧ (∀ x ∈ writes i, SameSlot t₁ t₂ x.1 x.2) ∧
    t₁.rsp.drop s₁.rsp.length = t₂.rsp.drop s₂.rsp.length ∧
    t₁.notif.drop s₁.notif.length = t₂.notif.drop s₂.notif.length

/-- The sources of notifications: `OVF_ENTERED(c)` exactly from a `COP.SUBMIT` that sets `OVF`, `OVF_CLEARED(c)` exactly
from the dequeue of a `COP.DRAIN` that clears it, nothing from any other command (R410, R411); phase 2 of a drain emits
one `OUTPUT_BLOCK(c)` for each output block its response counts (R321). The words are put at the end of the one list
`NOTIF`, in step order; that this orders the words of different channels is the model's choice (I14, log entry 18). -/
def Obligations.NotificationsAtTheirSources : Prop :=
  (∀ (i : Instr) (s t : State), exec i s = .next t →
    t.notif = s.notif ∨
    (∃ (c : Inst) (lo hi : Word) (x : List Cplx), i = .copSubmit c lo hi x ∧ (s.cop.at c).ovf = false ∧
      (t.cop.at c).ovf = true ∧ t.notif = s.notif ++ [BitVec.ofNat 32 (1 + 16 * c.toNat)]) ∨
    (∃ (c : Inst) (m : BitVec 22), i = .copDrain c m ∧ (s.cop.at c).ovf = true ∧ (t.cop.at c).ovf = false ∧
      t.notif = s.notif ++ [BitVec.ofNat 32 (2 + 16 * c.toNat)])) ∧
  (∀ (c : Inst) (lo hi : Word) (x : List Cplx) (s t : State), exec (.copSubmit c lo hi x) s = .next t →
    (s.cop.at c).ovf = false → (t.cop.at c).ovf = true → t.notif ≠ s.notif) ∧
  (∀ (c : Inst) (m : BitVec 22) (s t : State), exec (.copDrain c m) s = .next t →
    (s.cop.at c).ovf = true → (t.cop.at c).ovf = false → t.notif ≠ s.notif) ∧
  (∀ (s : State) (c : Inst), ∃ (n : Nat) (w : Word) (ws : List Word),
    (finishDrain s c).rsp = s.rsp ++ [w :: countWord n :: ws] ∧
    (finishDrain s c).notif = s.notif ++ List.replicate n (BitVec.ofNat 32 (3 + 16 * c.toNat)))

/-- A command addressed to an instance at or past `N_INST` of its kind is an argument error and does nothing else
(R101, R109, R140). -/
def Obligations.InstanceOutOfRangeRaises : Prop :=
  ∀ (i : Instr) (s : State) (k : Kind) (j : Inst), k ≠ .sys → i.WellFormed = true →
    kindOf (encode i).header = k.code → instOf (encode i).header = j → s.params.nInst k ≤ j.toNat →
    exec i s = .next (s.raise .invalidArgument (headerId (encode i).header))

/-! Reset and the invariant. -/

/-- The reset state: error record 0, every `VARIANT[k]` 5, `ID` and `HWCAP` constant, every instance unconstructed and
every register of it reading 0 but the constant `HIL.OVERLAP`, nothing pending or emitted; and `SYS.RESET` puts every
unit in the same state, emits no notification and answers `OK`, whatever the state before. Hardware reset of a machine in
any state puts every unit in it too; what was pending on `CMD` and every drain in progress is lost without response, no
event is emitted, what was emitted stays emitted, and the machine waits for a packet (R42, R144, R440, R441). -/
def Obligations.ResetState : Prop :=
  (State.reset.sys.errflags = 0#32 ∧ State.reset.sys.lasterr = 0#32 ∧
    (∀ k : Fin 9, State.reset.sys.variant[k].code = 5) ∧
    readReg State.reset .sys 0 0 = some 0x53445254#32 ∧ readReg State.reset .sys 0 1 = some 0x00001004#32 ∧
    State.reset.cmd = [] ∧ State.reset.rsp = [] ∧ State.reset.notif = [] ∧ drainingChannels State.reset = []) ∧
  (∀ i : Inst, (State.reset.firr.at i).constructed = false ∧ (State.reset.firc.at i).constructed = false ∧
    (State.reset.hbr.at i).constructed = false ∧ (State.reset.hbc.at i).constructed = false ∧
    (State.reset.hil.at i).constructed = false ∧ (State.reset.hil.at i).par = false ∧
    (State.reset.dcr.at i).constructed = false ∧ (State.reset.nco.at i).constructed = false ∧
    (State.reset.nco.at i).inc = 0#32 ∧ (State.reset.nco.at i).phase = 0#32 ∧
    (State.reset.mix.at i).constructed = false ∧ (State.reset.fmd.at i).constructed = false ∧
    (State.reset.dbi.at i).isOpen = false ∧ (State.reset.cop.at i).opened = false ∧
    (State.reset.cop.at i).queue = [] ∧ (State.reset.cop.at i).ovf = false) ∧
  (∀ (k : Kind) (i : Inst) (n : Nat) (v : Word), k ≠ .sys → readReg State.reset k i n = some v →
    v = 0#32 ∨ (k = .hil ∧ n = 3 ∧ v = 0x0000170B#32)) ∧
  (∀ s : State, exec .sysReset s = .next { State.reset with
    params := s.params, cmd := s.cmd, rsp := s.rsp ++ [[0#32]], notif := s.notif, picks := s.picks }) ∧
  (∀ s : State, s.hardReset = { State.reset with
      params := s.params, rsp := s.rsp, notif := s.notif, picks := s.picks } ∧
    s.hardReset.cmd = [] ∧ drainingChannels s.hardReset = [] ∧ step s.hardReset = .next s.hardReset)

/-- The invariant holds right after reset, and right after hardware reset of a machine in any state, whatever it was
doing. -/
def Obligations.ResetMeetsInvariant : Prop := State.reset.Inv ∧ ∀ s : State, s.params.Ok → s.hardReset.Inv

/-- Every step keeps the invariant: parameters and registers legal, every instance either as at reset or constructed
with legal arrays, the queue invariants of R39, the variant invariant of R147, `POS` within `NFRAG` (R29 to R39). -/
def Obligations.StepKeepsInvariant : Prop :=
  ∀ s t : State, s.Inv → step s = .next t → t.Inv

/-! Arithmetic. -/

/-- `fadd` is the IEEE sum: where operands and result are finite, no finite value lies nearer to the exact sum than the
result, a tie goes to the even significand, and an exact zero is +0.0 unless both operands are negative (R9). -/
def Obligations.SumRoundsToNearestEven : Prop :=
  ∀ a b v : F32, isFinite a = true → isFinite b = true → isFinite (fadd a b) = true → isFinite v = true →
    (units a + units b - units (fadd a b)).natAbs ≤ (units a + units b - units v).natAbs ∧
    ((units a + units b - units (fadd a b)).natAbs = (units a + units b - units v).natAbs →
      units v ≠ units (fadd a b) → (fadd a b).toNat % 2 = 0) ∧
    (units a + units b = 0 → fadd a b = if signBit a && signBit b then 0x80000000#32 else 0x00000000#32)

/-- `fmul` is the IEEE product: the same of the exact product, in units of 2^-298, with the product of the signs (R9). -/
def Obligations.ProductRoundsToNearestEven : Prop :=
  ∀ a b v : F32, isFinite a = true → isFinite b = true → isFinite (fmul a b) = true → isFinite v = true →
    (units a * units b - units (fmul a b) * 2 ^ 149).natAbs ≤ (units a * units b - units v * 2 ^ 149).natAbs ∧
    ((units a * units b - units (fmul a b) * 2 ^ 149).natAbs = (units a * units b - units v * 2 ^ 149).natAbs →
      units v ≠ units (fmul a b) → (fmul a b).toNat % 2 = 0) ∧
    signBit (fmul a b) = (signBit a != signBit b)

/-- The rest of IEEE sums, differences, products and equality. Overflow: the result of finite operands is infinite
exactly when the exact sum or product is at or past the midpoint above the largest finite value, with the sum's sign or the
product of the signs. Infinities: an infinite operand of a sum is the result, of a product gives an infinity with the
product of the signs, wherever the result is no NaN. A result is a NaN exactly when IEEE says so, and then a quiet one, of
whose sign and payload nothing is said (log entry 1); `fsub` otherwise adds the negated operand. `feq` is IEEE equality:
a NaN equals nothing, the two zeros are equal, otherwise equal values are equal bits; `is_zero` is equality with 0.0 (R9,
R10, R11). -/
def Obligations.SpecialValuesOfSumsAndProducts : Prop :=
  (∀ a b : F32, isFinite a = true → isFinite b = true →
    (isFinite (fadd a b) = false ↔ 2 ^ 277 - 2 ^ 252 ≤ (units a + units b).natAbs) ∧
    (isFinite (fadd a b) = false → fadd a b = if units a + units b < 0 then 0xFF800000#32 else 0x7F800000#32) ∧
    (isFinite (fmul a b) = false ↔ (2 ^ 277 - 2 ^ 252) * 2 ^ 149 ≤ (units a * units b).natAbs) ∧
    (isFinite (fmul a b) = false →
      fmul a b = if signBit a != signBit b then 0xFF800000#32 else 0x7F800000#32)) ∧
  (∀ a b : F32, isNaN a = false → isFinite a = false →
    (isNaN (fadd a b) = false → fadd a b = a) ∧ (isNaN (fadd b a) = false → fadd b a = a) ∧
    (∀ r ∈ [fmul a b, fmul b a], isNaN r = false →
      r = if signBit a != signBit b then 0xFF800000#32 else 0x7F800000#32)) ∧
  (∀ a b : F32, isNaN (fsub a b) = false → fsub a b = fadd a (fneg b)) ∧
  (∀ a : F32, units (fneg a) = -units a ∧ isNaN (fneg a) = isNaN a ∧ isFinite (fneg a) = isFinite a) ∧
  (∀ a b : F32,
      (isNaN (fadd a b) = true ↔ isNaN a = true ∨ isNaN b = true ∨
        (isFinite a = false ∧ isFinite b = false ∧ signBit a ≠ signBit b)) ∧
      (isNaN (fsub a b) = true ↔ isNaN a = true ∨ isNaN b = true ∨
        (isFinite a = false ∧ isFinite b = false ∧ signBit a = signBit b)) ∧
      (isNaN (fmul a b) = true ↔ isNaN a = true ∨ isNaN b = true ∨
        (isFinite a = false ∧ isZero b = true) ∨ (isZero a = true ∧ isFinite b = false)) ∧
      (∀ r ∈ [fadd a b, fsub a b, fmul a b], isNaN r = true → 2 ^ 22 ≤ fracField r)) ∧
  (∀ a b : F32,
      (isNaN a = true ∨ isNaN b = true → feq a b = false) ∧
      (isNaN a = false → isNaN b = false → (feq a b = true ↔ a = b ∨ (isZero a = true ∧ isZero b = true))) ∧
      (isFinite a = true → isFinite b = true → (feq a b = true ↔ units a = units b)) ∧
      isZero a = feq a 0x00000000)

/-- Sums. `ssum` adds left to right. A vector sum is the value of some tree of additions over exactly the terms, each once,
for every lane count and whatever the implementation's choice; the reference one is the strided sum. The sum of a variant
is `ssum` for Scalar and the vector sum over the variant's lanes for the others, and the lanes are 1, 2, 4, 8, 16 (R12, R13,
R16). -/
def Obligations.VectorSumIsATreeOverTheTerms : Prop :=
  ((∀ t : F32, ssum [t] = t) ∧ (∀ (ts : List F32) (u : F32), ts ≠ [] → ssum (ts ++ [u]) = fadd (ssum ts) u)) ∧
  (∀ (num : Numerics) (w : Nat) (ts : List F32), w ∈ [2, 4, 8, 16] → ts ≠ [] →
    ∃ tree : SumTree, (treeLeaves tree).Perm (List.range ts.length) ∧ vsum num w ts = treeEval ts tree) ∧
  (∀ (w : Nat) (ts : List F32), w ∈ [2, 4, 8, 16] → ts ≠ [] →
    vsum .reference w ts = ssum ((List.range (min w ts.length)).map fun j =>
      ssum (((List.range ts.length).filter fun k => k % w = j).map fun k => ts.getD k fzero))) ∧
  (∀ (num : Numerics) (ts : List F32), sumBy num .scalar ts = ssum ts ∧
    ∀ v ∈ [Variant.vector64, .vector128, .vector256, .vector512], sumBy num v ts = vsum num (lanes v) ts) ∧
  [Variant.scalar, .vector64, .vector128, .vector256, .vector512].map lanes = [1, 2, 4, 8, 16]

/-- The oscillator functions are exact at the four axis phases, and at every phase finite and in [-1.0, 1.0], whatever
the implementation's choice (R14 (b), (c)). -/
def Obligations.OscillatorAxesAndRange : Prop :=
  ∀ P : Params,
    (ncoCos P 0x00000000 = 0x3F800000#32 ∧ ncoSin P 0x00000000 = 0x00000000#32 ∧
      ncoCos P 0x40000000 = 0x00000000#32 ∧ ncoSin P 0x40000000 = 0x3F800000#32 ∧
      ncoCos P 0x80000000 = 0xBF800000#32 ∧ ncoSin P 0x80000000 = 0x00000000#32 ∧
      ncoCos P 0xC0000000 = 0x00000000#32 ∧ ncoSin P 0xC0000000 = 0xBF800000#32) ∧
    (∀ p : Word, isFinite (ncoCos P p) = true ∧ (units (ncoCos P p)).natAbs ≤ 2 ^ 149 ∧
      isFinite (ncoSin P p) = true ∧ (units (ncoSin P p)).natAbs ≤ 2 ^ 149)

/-- The oscillator functions are within `NCO_EPS` of the real cosine and sine (R14 (a)), up to 2^-59: the model's own
margin for deciding the bound in integers (log entry 4). No binary32 function meets a bound below its rounding error,
so the bound is taken to be at least 2^-22. -/
def Obligations.OscillatorAccuracy : Prop :=
  ∀ (P : Params) (p : Word), 1 / 2 ^ 22 ≤ P.ncoEps →
    |((ratVal (ncoCos P p) : Rat) : ℝ) - Real.cos (2 * Real.pi * (p.toNat : ℝ) / 2 ^ 32)| ≤ (P.ncoEps : ℝ) + 1 / 2 ^ 59 ∧
    |((ratVal (ncoSin P p) : Rat) : ℝ) - Real.sin (2 * Real.pi * (p.toNat : ℝ) / 2 ^ 32)| ≤ (P.ncoEps : ℝ) + 1 / 2 ^ 59

/-- The arctangent's anchor values, for finite operands; one of the two ends of the range for y = -0.0 and x < 0; a NaN
for a NaN operand; in the range or a NaN for the operands the rule leaves open (R15 (b), (c), (d)). -/
def Obligations.ArctangentAnchorsAndOpenCases : Prop :=
  ∀ (P : Params) (y x : F32),
    (isFinite x = true → signBit x = false → atan2 P 0x00000000 x = 0x00000000#32) ∧
    (isFinite x = true → signBit x = true → isZero x = false → atan2 P 0x00000000 x = 0x40490FDB#32) ∧
    (isFinite y = true → isZero y = false → isZero x = true →
      atan2 P y x = if signBit y then 0xBFC90FDB#32 else 0x3FC90FDB#32) ∧
    (isFinite x = true → signBit x = true → isZero x = false →
      atan2 P 0x80000000 x = 0x40490FDB#32 ∨ atan2 P 0x80000000 x = 0xC0490FDB#32) ∧
    (isNaN y = true ∨ isNaN x = true → isNaN (atan2 P y x) = true) ∧
    ((isFinite y = false ∨ isFinite x = false ∨ (isZero y = true ∧ isZero x = true)) →
      isNaN (atan2 P y x) = true ∨
        (isFinite (atan2 P y x) = true ∧ (units (atan2 P y x)).natAbs ≤ (units 0x40490FDB#32).natAbs))

/-- For finite operands not both zero the arctangent is within `ATAN_EPS` of the four-quadrant arctangent (R15 (a)), up to
2^-59: the model's own margin (log entry 5); y = -0.0 with x < 0, where (d) replaces (a), is left out. -/
def Obligations.ArctangentAccuracy : Prop :=
  ∀ (P : Params) (y x : F32), 1 / 2 ^ 22 ≤ P.atanEps → isFinite y = true → isFinite x = true →
    ¬(isZero y = true ∧ isZero x = true) → ¬(y = 0x80000000#32 ∧ signBit x = true) →
    |((ratVal (atan2 P y x) : Rat) : ℝ) - Complex.arg ⟨(ratVal x : ℝ), (ratVal y : ℝ)⟩| ≤ (P.atanEps : ℝ) + 1 / 2 ^ 59

/-- Device words scale exactly: for every word width and every word the result is (u - 2^(W-1)) / 2^(W-1), without
rounding; and packed and unpacked buffers of the same 12-bit words give the same words, whatever the ignored bits (R357,
R358, R359). -/
def Obligations.DeviceWordsDecodeExactly : Prop :=
  (∀ w u : Nat, 2 ≤ w → w ≤ 16 → u < 2 ^ w →
      isFinite (scaleWord w u) = true ∧ units (scaleWord w u) * 2 ^ (w - 1) = ((u : Int) - 2 ^ (w - 1)) * 2 ^ 149) ∧
  (∀ us : List (Nat × Nat), (∀ u ∈ us, u.1 < 2 ^ 12 ∧ u.2 < 2 ^ 12) →
      packedPairs (us.flatMap fun u =>
        [BitVec.ofNat 8 u.1, BitVec.ofNat 8 (u.1 / 256 + 16 * (u.2 % 16)), BitVec.ofNat 8 (u.2 / 16)]) = us ∧
      (∀ hi : Nat × Nat → Nat × Nat,
        unpackedPairs 12 (us.flatMap fun u =>
          [BitVec.ofNat 8 u.1, BitVec.ofNat 8 (u.1 / 256 + 16 * (hi u).1),
            BitVec.ofNat 8 u.2, BitVec.ofNat 8 (u.2 / 256 + 16 * (hi u).2)]) = us))

/-! Construction. -/

/-- A filter `LOAD` with legal operands constructs the instance: coefficients, D, the latched variant, residuals of
+0.0 of the lengths of R30 to R32, nothing else changing but the response `OK`. For `FIRR` and `FIRC`: an odd length up
to `MAX_TAPS` and D not 0; for `HBR`, `HBC` and `HIL`: a legal length and an array of half-band shape. The latched
variant is `VARIANT[k]`, `Uncalibrated` falling back to Scalar (R160, R161, R192, R194, R195, R222, R225, R147). -/
def Obligations.FilterLoadConstructs : Prop :=
  (∀ (s : State) (k : Fin 9),
    s.latch k = if s.sys.variant[k] = .uncalibrated then .scalar else s.sys.variant[k]) ∧
  (∀ (s : State) (i : Inst) (d : BitVec 10) (c : List F32),
      c.length % 2 = 1 → c.length ≤ s.params.maxTaps → d ≠ 0#10 →
      (i.toNat < s.params.nFirr → exec (.firrLoad i d c) s = .next { s with
        firr := s.firr.put i ⟨true, s.latch 0, d, c, List.replicate (c.length - 1) 0x00000000⟩
        rsp := s.rsp ++ [[0x00000000]] }) ∧
      (i.toNat < s.params.nFirc → exec (.fircLoad i d c) s = .next { s with
        firc := s.firc.put i ⟨true, s.latch 1, d, c, List.replicate (c.length - 1) (0x00000000, 0x00000000)⟩
        rsp := s.rsp ++ [[0x00000000]] })) ∧
  (∀ (s : State) (i : Inst) (c : List F32), HalfBandShape c →
      (i.toNat < s.params.nHbr → 3 ≤ c.length → c.length ≤ s.params.maxTaps → c.length % 4 = 3 →
        exec (.hbrLoad i c) s = .next { s with
          hbr := s.hbr.put i ⟨true, s.latch 2, c, List.replicate (c.length - 1) 0x00000000⟩
          rsp := s.rsp ++ [[0x00000000]] }) ∧
      (i.toNat < s.params.nHbc → 3 ≤ c.length → c.length ≤ s.params.maxTaps → c.length % 4 = 3 →
        exec (.hbcLoad i c) s = .next { s with
          hbc := s.hbc.put i ⟨true, s.latch 3, c, List.replicate (c.length - 1) (0x00000000, 0x00000000)⟩
          rsp := s.rsp ++ [[0x00000000]] }) ∧
      (i.toNat < s.params.nHil → c.length = 47 →
        exec (.hilLoad i c) s = .next { s with
          hil := s.hil.put i
            ⟨true, s.latch 4, false, c, List.replicate 11 0x00000000, List.replicate 23 0x00000000⟩
          rsp := s.rsp ++ [[0x00000000]] }))

/-- `DCR.LOAD`, `NCO.LOAD`, `MIX.LOAD` and `FMD.LOAD` construct the instance whatever the operand; `MIX.LOAD` needs an
oscillator of its index (R242, R257, R269, R286). -/
def Obligations.ElementwiseLoadConstructs : Prop :=
  ∀ (s : State) (i : Inst) (w : Word),
    (i.toNat < s.params.nDcr → exec (.dcrLoad i w) s = .next { s with
      dcr := s.dcr.put i ⟨true, s.latch 5, w, 0x00000000⟩
      rsp := s.rsp ++ [[0x00000000]] }) ∧
    (i.toNat < s.params.nNco → exec (.ncoLoad i w) s = .next { s with
      nco := s.nco.put i ⟨true, s.latch 6, w, 0⟩
      rsp := s.rsp ++ [[0x00000000]] }) ∧
    (i.toNat < s.params.nMix → i.toNat < s.params.nNco → exec (.mixLoad i) s = .next { s with
      mix := s.mix.put i ⟨true, s.latch 7⟩
      rsp := s.rsp ++ [[0x00000000]] }) ∧
    (i.toNat < s.params.nMix → s.params.nNco ≤ i.toNat →
      exec (.mixLoad i) s = .next (s.raise .invalidArgument ⟨8, 0, i⟩)) ∧
    (i.toNat < s.params.nFmd → exec (.fmdLoad i) s = .next { s with
      fmd := s.fmd.put i ⟨true, s.latch 8, 0x00000000, 0x00000000⟩
      rsp := s.rsp ++ [[0x00000000]] })

/-- A filter is not constructed with an illegal length (status 2), then with D = 0 (status 3) or an array that is not of
half-band shape (status 2), in this order (R403, R415). -/
def Obligations.FilterLoadErrors : Prop :=
  ∀ (s : State) (i : Inst) (d : BitVec 10) (c : List F32),
    (i.toNat < s.params.nFirr → c.length % 2 = 0 ∨ s.params.maxTaps < c.length →
      exec (.firrLoad i d c) s = .next (s.raise .invalidFilterLength ⟨1, 0, i⟩)) ∧
    (i.toNat < s.params.nFirr → c.length % 2 = 1 → c.length ≤ s.params.maxTaps →
      exec (.firrLoad i 0 c) s = .next (s.raise .invalidArgument ⟨1, 0, i⟩)) ∧
    (i.toNat < s.params.nFirc → c.length % 2 = 0 ∨ s.params.maxTaps < c.length →
      exec (.fircLoad i d c) s = .next (s.raise .invalidFilterLength ⟨2, 0, i⟩)) ∧
    (i.toNat < s.params.nFirc → c.length % 2 = 1 → c.length ≤ s.params.maxTaps →
      exec (.fircLoad i 0 c) s = .next (s.raise .invalidArgument ⟨2, 0, i⟩)) ∧
    (i.toNat < s.params.nHbr → c.length < 3 ∨ s.params.maxTaps < c.length ∨ c.length % 4 ≠ 3 ∨ ¬HalfBandShape c →
      exec (.hbrLoad i c) s = .next (s.raise .invalidFilterLength ⟨3, 0, i⟩)) ∧
    (i.toNat < s.params.nHbc → c.length < 3 ∨ s.params.maxTaps < c.length ∨ c.length % 4 ≠ 3 ∨ ¬HalfBandShape c →
      exec (.hbcLoad i c) s = .next (s.raise .invalidFilterLength ⟨4, 0, i⟩)) ∧
    (i.toNat < s.params.nHil → c.length ≠ 47 ∨ ¬HalfBandShape c →
      exec (.hilLoad i c) s = .next (s.raise .invalidFilterLength ⟨5, 0, i⟩))

/-! Processing. -/

/-- `FIRR.PROC` and `FIRC.PROC` on a constructed instance and a legal block: M = N div D outputs by the convolution sum
over the working buffer, on each rail alone; the residual is the working buffer's tail; nothing else changes (R79, R162,
R163, R164). -/
def Obligations.FirProcFilters : Prop :=
  ∀ (s : State) (i : Inst),
    (∀ x : List F32, i.toNat < s.params.nFirr → (s.firr.at i).constructed = true →
      LegalBlock s.params ((s.firr.at i).decim.toNat * lanes (s.firr.at i).ivar) x.length →
      let u := s.firr.at i
      let w := u.resid ++ x
      ∃ y : List F32, y.length = x.length / u.decim.toNat ∧
        (∀ m < y.length, y[m]? = some (sumBy s.params.numerics u.ivar ((List.range u.coef.length).map fun k =>
          fmul (elem u.coef k) (elem w (m * u.decim.toNat + (u.coef.length - 1) - k))))) ∧
        exec (.firrProc i x) s = .next { s with
          firr := s.firr.put i { u with resid := w.drop x.length }
          rsp := s.rsp ++ [responseWord .ok y.length :: y] }) ∧
    (∀ x : List Cplx, i.toNat < s.params.nFirc → (s.firc.at i).constructed = true →
      LegalBlock s.params ((s.firc.at i).decim.toNat * lanes (s.firc.at i).ivar) x.length →
      let u := s.firc.at i
      let w := u.resid ++ x
      let out := fun (rail : List F32) (m : Nat) =>
        sumBy s.params.numerics u.ivar ((List.range u.coef.length).map fun k =>
          fmul (elem u.coef k) (elem rail (m * u.decim.toNat + (u.coef.length - 1) - k)))
      ∃ y : List Cplx, y.length = x.length / u.decim.toNat ∧
        (∀ m < y.length, y[m]? = some (out (w.map Prod.fst) m, out (w.map Prod.snd) m)) ∧
        exec (.fircProc i x) s = .next { s with
          firc := s.firc.put i { u with resid := w.drop x.length }
          rsp := s.rsp ++ [responseWord .ok y.length :: interleave y] })

/-- `HBR.PROC` and `HBC.PROC`: N / 2 outputs, the centre term first, then the folded pairs at even k, windows two
apart (R79, R196, R197, R198). -/
def Obligations.HalfBandProcFilters : Prop :=
  ∀ (s : State) (i : Inst),
    let out := fun (v : Variant) (c w : List F32) (n : Nat) =>
      sumBy s.params.numerics v (fmul (elem c ((c.length - 1) / 2)) (elem w (n + (c.length - 1) / 2)) ::
        ((List.range ((c.length - 1) / 2)).filter fun k => k % 2 = 0).map fun k =>
          fmul (elem c k) (fadd (elem w (n + k)) (elem w (n + (c.length - 1) - k))))
    (∀ x : List F32, i.toNat < s.params.nHbr → (s.hbr.at i).constructed = true → (s.hbr.at i).coef.length % 4 = 3 →
      LegalBlock s.params (2 * lanes (s.hbr.at i).ivar) x.length →
      let u := s.hbr.at i
      let w := u.resid ++ x
      ∃ y : List F32, y.length = x.length / 2 ∧
        (∀ m < y.length, y[m]? = some (out u.ivar u.coef w (2 * m))) ∧
        exec (.hbrProc i x) s = .next { s with
          hbr := s.hbr.put i { u with resid := w.drop x.length }
          rsp := s.rsp ++ [responseWord .ok y.length :: y] }) ∧
    (∀ x : List Cplx, i.toNat < s.params.nHbc → (s.hbc.at i).constructed = true → (s.hbc.at i).coef.length % 4 = 3 →
      LegalBlock s.params (2 * lanes (s.hbc.at i).ivar) x.length →
      let u := s.hbc.at i
      let w := u.resid ++ x
      ∃ y : List Cplx, y.length = x.length / 2 ∧
        (∀ m < y.length, y[m]? =
          some (out u.ivar u.coef (w.map Prod.fst) (2 * m), out u.ivar u.coef (w.map Prod.snd) (2 * m))) ∧
        exec (.hbcProc i x) s = .next { s with
          hbc := s.hbc.put i { u with resid := w.drop x.length }
          rsp := s.rsp ++ [responseWord .ok y.length :: interleave y] })

/-- `HIL.PROC`: pair p takes the odd signs exactly when `PAR` + p is odd; I is the centre tap times A eleven pairs back,
Q the twelve folded terms over B; both residuals are carried and `PAR` flips with an odd block (R221, R224, R226,
R227). -/
def Obligations.HilbertProcTransforms : Prop :=
  ∀ (s : State) (i : Inst) (r : List Cplx), i.toNat < s.params.nHil → (s.hil.at i).constructed = true →
    LegalBlock s.params (lanes (s.hil.at i).ivar) r.length →
    let u := s.hil.at i
    ∃ (a b : List F32) (y : List Cplx), a.length = r.length ∧ b.length = r.length ∧ y.length = r.length ∧
      (∀ (p : Nat) (q : Cplx), r[p]? = some q →
        (a[p]?, b[p]?) = if (u.par.toNat + p) % 2 = 1 then (some (fneg q.1), some q.2) else (some q.1, some (fneg q.2))) ∧
      (∀ m < r.length, y[m]? = some
        (fmul (elem u.coef 23) (elem (u.residI ++ a) m),
          sumBy s.params.numerics u.ivar ((List.range 12).map fun j =>
            fmul (elem u.coef (2 * j)) (fadd (elem (u.residQ ++ b) (m + j)) (elem (u.residQ ++ b) (m + 23 - j)))))) ∧
      exec (.hilProc i r) s = .next { s with
        hil := s.hil.put i { u with
          residI := (u.residI ++ a).drop r.length
          residQ := (u.residQ ++ b).drop r.length
          par := decide ((u.par.toNat + r.length) % 2 = 1) }
        rsp := s.rsp ++ [responseWord .ok r.length :: interleave y] }

/-- `DCR.PROC` and `FMD.PROC`: every output and the carried state by their recurrences, sample after sample; a variant
changes nothing but the granularity (R240, R246, R290). -/
def Obligations.RecurrencesProc : Prop :=
  ∀ (s : State) (i : Inst),
    (∀ x : List F32, i.toNat < s.params.nDcr → (s.dcr.at i).constructed = true →
      LegalBlock s.params (lanes (s.dcr.at i).ivar) x.length →
      let u := s.dcr.at i
      ∃ (y : List F32) (avg : Nat → F32), y.length = x.length ∧ avg 0 = u.avg ∧
        (∀ n < x.length, y[n]? = some (fsub (elem x n) (avg n)) ∧
          avg (n + 1) = fadd (avg n) (fmul u.alpha (fsub (elem x n) (avg n)))) ∧
        exec (.dcrProc i x) s = .next { s with
          dcr := s.dcr.put i { u with avg := avg x.length }
          rsp := s.rsp ++ [responseWord .ok x.length :: y] }) ∧
    (∀ x : List Cplx, i.toNat < s.params.nFmd → (s.fmd.at i).constructed = true →
      LegalBlock s.params (lanes (s.fmd.at i).ivar) x.length →
      let u := s.fmd.at i
      let st := (u.prevI, u.prevQ) :: x
      ∃ y : List F32, y.length = x.length ∧
        (∀ n < x.length,
          let p := st.getD n (0, 0)
          let v := st.getD (n + 1) (0, 0)
          let di := fadd (fmul v.1 p.1) (fmul v.2 p.2)
          let dq := fsub (fmul v.2 p.1) (fmul v.1 p.2)
          y[n]? = some (if isZero di && isZero dq then 0x00000000#32 else atan2 s.params dq di)) ∧
        exec (.fmdProc i x) s = .next { s with
          fmd := s.fmd.put i { u with
            prevI := (st.getD x.length (0, 0)).1
            prevQ := (st.getD x.length (0, 0)).2 }
          rsp := s.rsp ++ [responseWord .ok x.length :: y] })

/-- `NCO.GEN` and `MIX.PROC`: sample n at phase `PHASE` + n * `INC` modulo 2^32, the mixer's product with it, and the
oscillator of that index advanced by N steps; the mixer's granularity is its own variant's (R255, R262, R268, R270). -/
def Obligations.OscillatorAndMixer : Prop :=
  ∀ (s : State) (i : Inst),
    (∀ n : BitVec 22, i.toNat < s.params.nNco → (s.nco.at i).constructed = true →
      LegalBlock s.params (lanes (s.nco.at i).ivar) n.toNat →
      let u := s.nco.at i
      ∃ y : List Cplx, y.length = n.toNat ∧
        (∀ m < n.toNat, y[m]? = some (ncoCos s.params (u.phase + BitVec.ofNat 32 m * u.inc),
          ncoSin s.params (u.phase + BitVec.ofNat 32 m * u.inc))) ∧
        exec (.ncoGen i n) s = .next { s with
          nco := s.nco.put i { u with phase := u.phase + BitVec.ofNat 32 n.toNat * u.inc }
          rsp := s.rsp ++ [responseWord .ok n.toNat :: interleave y] }) ∧
    (∀ x : List Cplx, i.toNat < s.params.nMix → (s.mix.at i).constructed = true → (s.nco.at i).constructed = true →
      LegalBlock s.params (lanes (s.mix.at i).ivar) x.length →
      let u := s.nco.at i
      ∃ y : List Cplx, y.length = x.length ∧
        (∀ (m : Nat) (v : Cplx), x[m]? = some v →
          let c := ncoCos s.params (u.phase + BitVec.ofNat 32 m * u.inc)
          let d := ncoSin s.params (u.phase + BitVec.ofNat 32 m * u.inc)
          y[m]? = some (fsub (fmul v.1 c) (fmul v.2 d), fadd (fmul v.2 c) (fmul v.1 d))) ∧
        exec (.mixProc i x) s = .next { s with
          nco := s.nco.put i { u with phase := u.phase + BitVec.ofNat 32 x.length * u.inc }
          rsp := s.rsp ++ [responseWord .ok x.length :: interleave y] })

/-- A `PROC` or `GEN` answers `NotConstructedError` on an instance that is not constructed, then `InvalidBlockSizeError`
for a block longer than `MAX_BLOCK` or not a multiple of the granularity; nothing else changes (R402, R406, R415). -/
def Obligations.ProcErrors : Prop :=
  ∀ (s : State) (i : Inst),
    let verdict := fun (id : CmdId) (constructed : Bool) (gran n : Nat) (answer : Host.Outcome State Fault Refusal) =>
      (constructed = false → answer = .next (s.raise .notConstructed id)) ∧
      (constructed = true → s.params.maxBlock < n ∨ n % gran ≠ 0 → answer = .next (s.raise .invalidBlockSize id))
    (∀ x : List F32,
      (i.toNat < s.params.nFirr → verdict ⟨1, 1, i⟩ (s.firr.at i).constructed
        ((s.firr.at i).decim.toNat * lanes (s.firr.at i).ivar) x.length (exec (.firrProc i x) s)) ∧
      (i.toNat < s.params.nHbr → verdict ⟨3, 1, i⟩ (s.hbr.at i).constructed
        (2 * lanes (s.hbr.at i).ivar) x.length (exec (.hbrProc i x) s)) ∧
      (i.toNat < s.params.nDcr → verdict ⟨6, 1, i⟩ (s.dcr.at i).constructed
        (lanes (s.dcr.at i).ivar) x.length (exec (.dcrProc i x) s))) ∧
    (∀ x : List Cplx,
      (i.toNat < s.params.nFirc → verdict ⟨2, 1, i⟩ (s.firc.at i).constructed
        ((s.firc.at i).decim.toNat * lanes (s.firc.at i).ivar) x.length (exec (.fircProc i x) s)) ∧
      (i.toNat < s.params.nHbc → verdict ⟨4, 1, i⟩ (s.hbc.at i).constructed
        (2 * lanes (s.hbc.at i).ivar) x.length (exec (.hbcProc i x) s)) ∧
      (i.toNat < s.params.nHil → verdict ⟨5, 1, i⟩ (s.hil.at i).constructed
        (lanes (s.hil.at i).ivar) x.length (exec (.hilProc i x) s)) ∧
      (i.toNat < s.params.nMix → verdict ⟨8, 1, i⟩ ((s.mix.at i).constructed && (s.nco.at i).constructed)
        (lanes (s.mix.at i).ivar) x.length (exec (.mixProc i x) s)) ∧
      (i.toNat < s.params.nFmd → verdict ⟨9, 1, i⟩ (s.fmd.at i).constructed
        (lanes (s.fmd.at i).ivar) x.length (exec (.fmdProc i x) s))) ∧
    (∀ n : BitVec 22, i.toNat < s.params.nNco → verdict ⟨7, 1, i⟩ (s.nco.at i).constructed
      (lanes (s.nco.at i).ivar) n.toNat (exec (.ncoGen i n) s))

/-- The `CLR` commands zero the carried state of a constructed instance and keep the rest of it; on one that is not
constructed they change nothing; both answer `OK` (R165, R199, R228, R247, R263, R291). -/
def Obligations.ClearKeepsTheConstruction : Prop :=
  ∀ (s : State) (i : Inst),
    let r := s.rsp ++ [[0x00000000#32]]
    (i.toNat < s.params.nFirr → exec (.firrClr i) s = .next { s with
      firr := if (s.firr.at i).constructed then s.firr.put i { s.firr.at i with
        resid := List.replicate (s.firr.at i).resid.length 0x00000000 } else s.firr
      rsp := r }) ∧
    (i.toNat < s.params.nFirc → exec (.fircClr i) s = .next { s with
      firc := if (s.firc.at i).constructed then s.firc.put i { s.firc.at i with
        resid := List.replicate (s.firc.at i).resid.length (0x00000000, 0x00000000) } else s.firc
      rsp := r }) ∧
    (i.toNat < s.params.nHbr → exec (.hbrClr i) s = .next { s with
      hbr := if (s.hbr.at i).constructed then s.hbr.put i { s.hbr.at i with
        resid := List.replicate (s.hbr.at i).resid.length 0x00000000 } else s.hbr
      rsp := r }) ∧
    (i.toNat < s.params.nHbc → exec (.hbcClr i) s = .next { s with
      hbc := if (s.hbc.at i).constructed then s.hbc.put i { s.hbc.at i with
        resid := List.replicate (s.hbc.at i).resid.length (0x00000000, 0x00000000) } else s.hbc
      rsp := r }) ∧
    (i.toNat < s.params.nHil → exec (.hilClr i) s = .next { s with
      hil := if (s.hil.at i).constructed then s.hil.put i { s.hil.at i with
        residI := List.replicate 11 0x00000000, residQ := List.replicate 23 0x00000000, par := false } else s.hil
      rsp := r }) ∧
    (i.toNat < s.params.nDcr → exec (.dcrClr i) s = .next { s with
      dcr := if (s.dcr.at i).constructed then s.dcr.put i { s.dcr.at i with avg := 0x00000000 } else s.dcr
      rsp := r }) ∧
    (i.toNat < s.params.nNco → exec (.ncoClr i) s = .next { s with
      nco := if (s.nco.at i).constructed then s.nco.put i { s.nco.at i with phase := 0 } else s.nco
      rsp := r }) ∧
    (i.toNat < s.params.nFmd → exec (.fmdClr i) s = .next { s with
      fmd := if (s.fmd.at i).constructed then s.fmd.put i { s.fmd.at i with
        prevI := 0x00000000, prevQ := 0x00000000 } else s.fmd
      rsp := r })

/-! Chunking. -/

/-- Chunking invariance of the overlap-save filters: any two ways of cutting one input into legal blocks give the same
outputs bit for bit and the same final state, for `FIRR`, `FIRC`, `HBR`, `HBC` and `HIL` (R166, R202, R229). -/
def Obligations.OverlapSaveChunking : Prop :=
  ∀ (s : State) (i : Inst), s.Inv →
    (i.toNat < s.params.nFirr → (s.firr.at i).constructed = true →
      ChunkLaw (.firrProc i) (LegalBlock s.params ((s.firr.at i).decim.toNat * lanes (s.firr.at i).ivar))
        (fun t u => t.firr = u.firr) s) ∧
    (i.toNat < s.params.nFirc → (s.firc.at i).constructed = true →
      ChunkLaw (.fircProc i) (LegalBlock s.params ((s.firc.at i).decim.toNat * lanes (s.firc.at i).ivar))
        (fun t u => t.firc = u.firc) s) ∧
    (i.toNat < s.params.nHbr → (s.hbr.at i).constructed = true →
      ChunkLaw (.hbrProc i) (LegalBlock s.params (2 * lanes (s.hbr.at i).ivar)) (fun t u => t.hbr = u.hbr) s) ∧
    (i.toNat < s.params.nHbc → (s.hbc.at i).constructed = true →
      ChunkLaw (.hbcProc i) (LegalBlock s.params (2 * lanes (s.hbc.at i).ivar)) (fun t u => t.hbc = u.hbc) s) ∧
    (i.toNat < s.params.nHil → (s.hil.at i).constructed = true →
      ChunkLaw (.hilProc i) (LegalBlock s.params (lanes (s.hil.at i).ivar)) (fun t u => t.hil = u.hil) s)

/-- Chunking invariance of the units that carry one value: `DCR`, `MIX` with its oscillator, and `FMD`; and continuity of
the oscillator: N1 samples then N2 are the N1 + N2 samples of one request (R248, R264, R272, R292). -/
def Obligations.CarriedValueChunking : Prop :=
  ∀ (s : State) (i : Inst),
    (i.toNat < s.params.nDcr → (s.dcr.at i).constructed = true →
      ChunkLaw (.dcrProc i) (LegalBlock s.params (lanes (s.dcr.at i).ivar)) (fun t u => t.dcr = u.dcr) s) ∧
    (i.toNat < s.params.nMix → (s.mix.at i).constructed = true → (s.nco.at i).constructed = true →
      ChunkLaw (.mixProc i) (LegalBlock s.params (lanes (s.mix.at i).ivar)) (fun t u => t.nco = u.nco) s) ∧
    (i.toNat < s.params.nFmd → (s.fmd.at i).constructed = true →
      ChunkLaw (.fmdProc i) (LegalBlock s.params (lanes (s.fmd.at i).ivar)) (fun t u => t.fmd = u.fmd) s) ∧
    (∀ n₁ n₂ n : BitVec 22, i.toNat < s.params.nNco → (s.nco.at i).constructed = true →
      n.toNat = n₁.toNat + n₂.toNat → n.toNat ≤ s.params.maxBlock →
      n₁.toNat % lanes (s.nco.at i).ivar = 0 → n₂.toNat % lanes (s.nco.at i).ivar = 0 →
      outputs s (s.run [.ncoGen i n₁, .ncoGen i n₂]) = outputs s (s.run [.ncoGen i n]) ∧
      (s.run [.ncoGen i n₁, .ncoGen i n₂]).nco = (s.run [.ncoGen i n]).nco)

/-! Registers. -/

/-- `SYS.NOP` answers `OK`; `SYS.RDREG` of every listed register of an instance that exists answers its value; neither
changes anything else: the register file of R25 to R38, where a register of an instance that is not constructed reads 0
(R24, R141, R142). -/
def Obligations.NopAndReadChangeNothing : Prop :=
  ∀ (s : State) (i : Inst),
    let on := fun (flag : Bool) (n : Nat) => BitVec.ofNat 32 (if flag then n else 0)
    let f := s.firr.at i
    let g := s.firc.at i
    let h := s.hbr.at i
    let k := s.hbc.at i
    let l := s.hil.at i
    let d := s.dcr.at i
    let o := s.nco.at i
    let m := s.mix.at i
    let v := s.fmd.at i
    let b := s.dbi.at i
    let q := s.cop.at i
    let table : List (Kind × Nat × Word) :=
      [(.sys, 0, s.params.coreId), (.sys, 1, BitVec.ofNat 32 (s.params.hwMaxVariant + 0x1000)),
       (.sys, 2, s.sys.errflags), (.sys, 3, s.sys.lasterr),
       (.firr, 0, on f.constructed (1 + 2 * f.ivar.code)), (.firr, 1, on f.constructed f.coef.length),
       (.firr, 2, on f.constructed f.decim.toNat), (.firr, 3, on f.constructed (f.coef.length - 1)),
       (.firc, 0, on g.constructed (1 + 2 * g.ivar.code)), (.firc, 1, on g.constructed g.coef.length),
       (.firc, 2, on g.constructed g.decim.toNat), (.firc, 3, on g.constructed (g.coef.length - 1)),
       (.hbr, 0, on h.constructed (1 + 2 * h.ivar.code)), (.hbr, 1, on h.constructed h.coef.length),
       (.hbr, 2, on h.constructed 2), (.hbr, 3, on h.constructed (h.coef.length - 1)),
       (.hbc, 0, on k.constructed (1 + 2 * k.ivar.code)), (.hbc, 1, on k.constructed k.coef.length),
       (.hbc, 2, on k.constructed 2), (.hbc, 3, on k.constructed (k.coef.length - 1)),
       (.hil, 0, on l.constructed (1 + 2 * l.ivar.code + 16 * l.par.toNat)), (.hil, 1, on l.constructed 47),
       (.hil, 2, on l.constructed 2), (.hil, 3, 0x0000170B),
       (.dcr, 0, on d.constructed (1 + 2 * d.ivar.code)), (.dcr, 4, on d.constructed d.alpha.toNat),
       (.dcr, 5, on d.constructed d.avg.toNat),
       (.nco, 0, on o.constructed (1 + 2 * o.ivar.code)), (.nco, 4, on o.constructed o.inc.toNat),
       (.nco, 5, on o.constructed o.phase.toNat),
       (.mix, 0, on m.constructed (1 + 2 * m.ivar.code)),
       (.fmd, 0, on v.constructed (1 + 2 * v.ivar.code)), (.fmd, 4, on v.constructed v.prevI.toNat),
       (.fmd, 5, on v.constructed v.prevQ.toNat),
       (.dbi, 0, on b.isOpen (1 + 2 * (decide (b.pos < b.nfrag)).toNat + 4 * b.mode.toNat + 8 * b.packed.toNat +
         16 * b.dcen.toNat)),
       (.dbi, 1, on b.isOpen b.pos), (.dbi, 2, on b.isOpen b.nfrag), (.dbi, 3, on b.isOpen b.raw.length),
       (.dbi, 6, on b.isOpen (b.ts.toNat % 2 ^ 32)), (.dbi, 7, on b.isOpen (b.ts.toNat / 2 ^ 32)),
       (.cop, 0, on q.opened (1 + 2 * q.ovf.toNat)), (.cop, 1, on q.opened q.capacity.toNat),
       (.cop, 2, on q.opened q.recovery.toNat), (.cop, 3, on q.opened q.outblk.toNat),
       (.cop, 4, on q.opened q.gain.toNat), (.cop, 5, on q.opened q.finc.toNat),
       (.cop, 6, on q.opened q.fphase.toNat), (.cop, 7, on q.opened q.queue.length),
       (.cop, 8, on q.opened q.drops.toNat), (.cop, 9, on q.opened q.blkerr.toNat),
       (.cop, 10, on q.opened q.asm.length), (.cop, 11, on q.opened (q.asmTs.toNat % 2 ^ 32)),
       (.cop, 12, on q.opened (q.asmTs.toNat / 2 ^ 32))]
    exec .sysNop s = .next { s with rsp := s.rsp ++ [[0x00000000]] } ∧
    (∀ e ∈ table, i.toNat < s.params.nInst e.1 →
      exec (.sysRdreg i e.1.code (BitVec.ofNat 8 e.2.1)) s =
        .next { s with rsp := s.rsp ++ [[0x00000000, e.2.2]] }) ∧
    (∀ n : Fin 9, exec (.sysRdreg 0 0 (BitVec.ofNat 8 (17 + n.val))) s =
      .next { s with rsp := s.rsp ++ [[0x00000000, BitVec.ofNat 32 (s.sys.variant[n]).code]] })

/-- `SYS.WRREG` writes what is writable and only that: `ERRFLAGS` loses the bits written as 1, `VARIANT[k]` takes a usable
code and no construction's variant changes, `GAIN` and `FINC` of an opened channel take any word (R143, R24, R147). -/
def Obligations.WriteRegisterTakesEffect : Prop :=
  ∀ (s : State) (i : Inst) (v : Word),
    exec (.sysWrreg 0 0 2 v) s = .next { s with
      sys := { s.sys with errflags := s.sys.errflags &&& ~~~(v &&& 0xFE#32) }
      rsp := s.rsp ++ [[0x00000000]] } ∧
    (∀ (k : Fin 9) (x : Variant), v = BitVec.ofNat 32 x.code → (x = .uncalibrated ∨ x.code ≤ s.params.hwMaxVariant) →
      exec (.sysWrreg 0 0 (BitVec.ofNat 8 (17 + k.val)) v) s = .next { s with
        sys := { s.sys with variant := s.sys.variant.set k.val x k.isLt }
        rsp := s.rsp ++ [[0x00000000]] }) ∧
    (i.toNat < s.params.nCop → (s.cop.at i).opened = true →
      exec (.sysWrreg i 11 4 v) s = .next { s with
        cop := s.cop.put i { s.cop.at i with gain := v }, rsp := s.rsp ++ [[0x00000000]] } ∧
      exec (.sysWrreg i 11 5 v) s = .next { s with
        cop := s.cop.put i { s.cop.at i with finc := v }, rsp := s.rsp ++ [[0x00000000]] })

/-- A register access at an address that names no register of an existing instance is an argument error, and so are a
write to a read-only register and a write of an unusable variant code; a write to `GAIN` or `FINC` of a channel that is
not opened is `NotConstructedError` (R24, R26, R142, R143). -/
def Obligations.RegisterAccessErrors : Prop :=
  let listed : Kind → List Nat := fun k =>
    match k with
    | .sys => [0, 1, 2, 3, 17, 18, 19, 20, 21, 22, 23, 24, 25]
    | .firr | .firc | .hbr | .hbc | .hil => [0, 1, 2, 3]
    | .dcr | .nco | .fmd => [0, 4, 5]
    | .mix => [0]
    | .dbi => [0, 1, 2, 3, 6, 7]
    | .cop => [0, 1, 2, 3, 4, 5, 6, 7, 8, 9, 10, 11, 12]
  let writable : Kind → List Nat := fun k =>
    match k with
    | .sys => [2, 17, 18, 19, 20, 21, 22, 23, 24, 25]
    | .cop => [4, 5]
    | _ => []
  ∀ (s : State) (i : Inst) (rk : BitVec 4) (n : BitVec 8) (v : Word),
    (12 ≤ rk.toNat ∨ (∃ k : Kind, rk = k.code ∧ (s.params.nInst k ≤ i.toNat ∨ n.toNat ∉ listed k)) →
      exec (.sysRdreg i rk n) s = .next (s.raise .invalidArgument ⟨0, 1, i⟩) ∧
      exec (.sysWrreg i rk n v) s = .next (s.raise .invalidArgument ⟨0, 2, i⟩)) ∧
    (∀ k : Kind, rk = k.code → n.toNat ∉ writable k →
      exec (.sysWrreg i rk n v) s = .next (s.raise .invalidArgument ⟨0, 2, i⟩)) ∧
    (17 ≤ n.toNat → n.toNat ≤ 25 → 5 < v.toNat ∨ (1 ≤ v.toNat ∧ v.toNat ≤ 4 ∧ s.params.hwMaxVariant < v.toNat) →
      exec (.sysWrreg 0 0 n v) s = .next (s.raise .invalidArgument ⟨0, 2, 0⟩)) ∧
    (i.toNat < s.params.nCop → (s.cop.at i).opened = false → n = 4#8 ∨ n = 5#8 →
      exec (.sysWrreg i 11 n v) s = .next (s.raise .notConstructed ⟨0, 2, i⟩))

/-! The device buffer iterator. -/

/-- `DBI.OPEN` with acceptable operands opens a fresh iterator over the `RAWLEN` bytes of the payload, little-endian in
each word, replacing any open one; what it refuses, in the order of its checks, leaves an open iterator as it was (R73,
R353, R354, R355, R406). -/
def Obligations.IteratorOpensOrRefuses : Prop :=
  (∀ (s : State) (i : Inst) (rawlen : BitVec 22) (flags lo hi : Word) (ri rq : List F32) (raw : List Word),
      i.toNat < s.params.nDbi →
      flags.toNat / 8 % 32 = 0 → flags.toNat / 2 ^ 24 = 0 →
      (flags.getLsbD 1 = true → s.params.sampleBits = 12) → (flags.getLsbD 2 = true → flags.getLsbD 0 = true) →
      ri.length = flags.toNat / 2 ^ 8 % 2 ^ 8 → rq.length = flags.toNat / 2 ^ 16 % 2 ^ 8 →
      (ri.length, rq.length) = (if flags.getLsbD 0 then (11, 23) else (0, 0)) →
      rawlen.toNat ≤ s.params.maxRaw →
      rawlen.toNat % (s.params.fragSize * if flags.getLsbD 1 then 3 else 4) = 0 →
      raw.length = (rawlen.toNat + 3) / 4 →
      (∀ k, rawlen.toNat ≤ k → k < 4 * raw.length →
        ((raw.getD (k / 4) 0).extractLsb' (8 * (k % 4)) 8 : BitVec 8) = 0#8) →
      (flags.getLsbD 0 = true → i.toNat < s.params.nHil ∧ (s.hil.at i).constructed = true) →
      (flags.getLsbD 2 = true → i.toNat < s.params.nDcr ∧ (s.dcr.at i).constructed = true) →
      exec (.dbiOpen i rawlen flags lo hi ri rq raw) s = .next { s with
        dbi := s.dbi.put i {
          isOpen := true, mode := flags.getLsbD 0, packed := flags.getLsbD 1, dcen := flags.getLsbD 2
          ts := BitVec.ofNat 64 (hi.toNat * 2 ^ 32 + lo.toNat)
          raw := (List.range rawlen.toNat).map fun k => (raw.getD (k / 4) 0).extractLsb' (8 * (k % 4)) 8
          nfrag := rawlen.toNat / (s.params.fragSize * if flags.getLsbD 1 then 3 else 4)
          pos := 0, residI := ri, residQ := rq }
        rsp := s.rsp ++ [[0x00000000]] }) ∧
  (∀ (s : State) (i : Inst) (rawlen : BitVec 22) (flags lo hi : Word) (ri rq : List F32) (raw : List Word),
      let stride := if flags.getLsbD 1 then 3 else 4
      let badArgument : Prop :=
        s.params.nDbi ≤ i.toNat ∨ flags.toNat / 8 % 32 ≠ 0 ∨ flags.toNat / 2 ^ 24 ≠ 0 ∨
        (flags.getLsbD 1 = true ∧ s.params.sampleBits ≠ 12) ∨ (flags.getLsbD 0 = false ∧ flags.getLsbD 2 = true) ∨
        (flags.toNat / 2 ^ 8 % 2 ^ 8, flags.toNat / 2 ^ 16 % 2 ^ 8) ≠ (if flags.getLsbD 0 then (11, 23) else (0, 0)) ∨
        s.params.maxRaw < rawlen.toNat ∨ rawlen.toNat % (s.params.fragSize * stride) ≠ 0 ∨
        (flags.getLsbD 0 = true ∧ s.params.nHil ≤ i.toNat) ∨
        (flags.getLsbD 0 = true ∧ flags.getLsbD 2 = true ∧ s.params.nDcr ≤ i.toNat)
      (badArgument →
        exec (.dbiOpen i rawlen flags lo hi ri rq raw) s = .next (s.raise .invalidArgument ⟨10, 0, i⟩)) ∧
      (Instr.WellFormed (.dbiOpen i rawlen flags lo hi ri rq raw) = true → ¬badArgument →
        ((∃ k, rawlen.toNat ≤ k ∧ k < 4 * raw.length ∧
            ((raw.getD (k / 4) 0).extractLsb' (8 * (k % 4)) 8 : BitVec 8) ≠ 0#8) →
          exec (.dbiOpen i rawlen flags lo hi ri rq raw) s = .next (s.raise .invalidArgument ⟨10, 0, i⟩)) ∧
        ((∀ k, rawlen.toNat ≤ k → k < 4 * raw.length →
            ((raw.getD (k / 4) 0).extractLsb' (8 * (k % 4)) 8 : BitVec 8) = 0#8) →
          (flags.getLsbD 0 = true ∧ (s.hil.at i).constructed = false) ∨
            (flags.getLsbD 2 = true ∧ (s.dcr.at i).constructed = false) →
          exec (.dbiOpen i rawlen flags lo hi ri rq raw) s = .next (s.raise .notConstructed ⟨10, 0, i⟩))))

/-- `DBI.NEXT` in native mode: the next fragment's pairs, scaled, I from the first word and Q from the second, under the
buffer's timestamp; only `POS` advances (R357, R358, R360, R361). -/
def Obligations.IteratorNextNative : Prop :=
  ∀ (s : State) (i : Inst), s.Inv → i.toNat < s.params.nDbi →
    let u := s.dbi.at i
    u.isOpen = true → u.mode = false → u.pos < u.nfrag →
    let stride := if u.packed then 3 else 4
    let byte := fun (k : Nat) => (u.raw.getD k 0).toNat
    let W := s.params.sampleBits
    ∃ y : List Cplx, y.length = s.params.fragSize ∧
      (∀ p < s.params.fragSize,
        let o := u.pos * (s.params.fragSize * stride) + stride * p
        let u₀ := if u.packed then byte o + 256 * (byte (o + 1) % 16) else (byte o + 256 * byte (o + 1)) % 2 ^ W
        let u₁ := if u.packed then byte (o + 1) / 16 + 16 * byte (o + 2)
          else (byte (o + 2) + 256 * byte (o + 3)) % 2 ^ W
        y[p]? = some (scaleWord W u₀, scaleWord W u₁)) ∧
      exec (.dbiNext i) s = .next { s with
        dbi := s.dbi.put i { u with pos := u.pos + 1 }
        rsp := s.rsp ++ [responseWord .ok s.params.fragSize :: BitVec.ofNat 32 (u.ts.toNat % 2 ^ 32) ::
          BitVec.ofNat 32 (u.ts.toNat / 2 ^ 32) :: interleave y] }

/-- `DBI.NEXT` in real-sampled mode on a fragment x of scaled words: the samples pass the DC removal recurrence of
`DCR[i]` if `DCEN`, then the Hilbert transform with `HIL[i].COEF`, parity 0, the iterator's own residuals and Scalar
sums; what else changes is `POS`, those residuals and that DC estimate (R360, R362). -/
def Obligations.IteratorNextReal : Prop :=
  ∀ (s : State) (i : Inst), i.toNat < s.params.nDbi →
    let u := s.dbi.at i
    let d := s.dcr.at i
    let c := (s.hil.at i).coef
    u.isOpen = true → u.mode = true → u.pos < u.nfrag →
    let x := fragmentPairs s.params u.packed u.raw u.pos
    ∃ (z : List Cplx) (avg : F32) (a b : List F32) (y : List Cplx),
      (if u.dcen then interleave z = (dcrRun d.alpha d.avg (interleave x)).1 ∧
          avg = (dcrRun d.alpha d.avg (interleave x)).2 ∧ z.length = x.length
        else z = x ∧ avg = d.avg) ∧
      a.length = x.length ∧ b.length = x.length ∧ y.length = x.length ∧
      (∀ (p : Nat) (q : Cplx), z[p]? = some q →
        (a[p]?, b[p]?) = if p % 2 = 1 then (some (fneg q.1), some q.2) else (some q.1, some (fneg q.2))) ∧
      (∀ m < x.length, y[m]? = some
        (fmul (elem c 23) (elem (u.residI ++ a) m),
          ssum ((List.range 12).map fun j =>
            fmul (elem c (2 * j)) (fadd (elem (u.residQ ++ b) (m + j)) (elem (u.residQ ++ b) (m + 23 - j)))))) ∧
      exec (.dbiNext i) s = .next { s with
        dbi := s.dbi.put i { u with
          pos := u.pos + 1
          residI := (u.residI ++ a).drop x.length
          residQ := (u.residQ ++ b).drop x.length }
        dcr := if u.dcen then s.dcr.put i { d with avg := avg } else s.dcr
        rsp := s.rsp ++ [responseWord .ok s.params.fragSize :: BitVec.ofNat 32 (u.ts.toNat % 2 ^ 32) ::
          BitVec.ofNat 32 (u.ts.toNat / 2 ^ 32) :: interleave y] }

/-- `DBI.NEXT` past the last fragment is `NoSuchElementError`, and on an iterator that is not open `NotConstructedError`,
as is `DBI.RESID`; `DBI.RESID` of an open one answers both residuals; `DBI.CLR` closes it, so that every register of it
reads 0 (R360, R367, R369). -/
def Obligations.IteratorEndResidualsAndClear : Prop :=
  ∀ (s : State) (i : Inst), i.toNat < s.params.nDbi →
    let u := s.dbi.at i
    (u.isOpen = true → u.nfrag ≤ u.pos → exec (.dbiNext i) s = .next (s.raise .noSuchElement ⟨10, 1, i⟩)) ∧
    (u.isOpen = false → exec (.dbiNext i) s = .next (s.raise .notConstructed ⟨10, 1, i⟩) ∧
      exec (.dbiResid i) s = .next (s.raise .notConstructed ⟨10, 3, i⟩)) ∧
    (u.isOpen = true → exec (.dbiResid i) s = .next { s with
      rsp := s.rsp ++ [responseWord .ok (u.residI.length + u.residQ.length) :: (u.residI ++ u.residQ)] }) ∧
    (∃ t : State, exec (.dbiClr i) s = .next t ∧ (t.dbi.at i).isOpen = false ∧
      t = { s with dbi := s.dbi.put i (t.dbi.at i), rsp := s.rsp ++ [[0x00000000]] } ∧
      ∀ (n : Nat) (v : Word), readReg t .dbi i n = some v → v = 0#32)

/-- `POS` never decreases while an iterator stays open and advances by at most one: only a new `DBI.OPEN` sets it back
(R22, R366). -/
def Obligations.PositionNeverDecreases : Prop :=
  ∀ (c : Instr) (s t : State) (i : Inst), exec c s = .next t → (s.dbi.at i).isOpen = true →
    (t.dbi.at i).isOpen = true →
    (∃ (n : BitVec 22) (flags lo hi : Word) (ri rq : List F32) (raw : List Word),
      c = .dbiOpen i n flags lo hi ri rq raw) ∨
    (t.dbi.at i).pos = (s.dbi.at i).pos ∨
    (c = .dbiNext i ∧ (t.dbi.at i).pos = (s.dbi.at i).pos + 1 ∧ (s.dbi.at i).pos < (s.dbi.at i).nfrag)

/-- Seam continuity: two buffers opened one after the other, the second with the residuals the first left, give word
for word the fragments, and leave the residuals and the DC estimate, of one iterator over the joined buffer (R368). -/
def Obligations.SeamContinuity : Prop :=
  ∀ (s s₁ a s₂ b s₃ c : State) (i : Inst) (l₁ l₂ l₃ : BitVec 22) (flags lo hi : Word) (ri rq : List F32)
    (w₁ w₂ w₃ : List Word),
    l₃.toNat = l₁.toNat + l₂.toNat →
    (rawBytes w₃).take l₃.toNat = (rawBytes w₁).take l₁.toNat ++ (rawBytes w₂).take l₂.toNat →
    exec (.dbiOpen i l₁ flags lo hi ri rq w₁) s = .next s₁ → s₁.rsp = s.rsp ++ [[0x00000000]] →
    a = s₁.run (List.replicate (s₁.dbi.at i).nfrag (.dbiNext i)) →
    exec (.dbiOpen i l₂ flags lo hi (a.dbi.at i).residI (a.dbi.at i).residQ w₂) a = .next s₂ →
    s₂.rsp = a.rsp ++ [[0x00000000]] →
    b = s₂.run (List.replicate (s₂.dbi.at i).nfrag (.dbiNext i)) →
    exec (.dbiOpen i l₃ flags lo hi ri rq w₃) s = .next s₃ → s₃.rsp = s.rsp ++ [[0x00000000]] →
    c = s₃.run (List.replicate (s₃.dbi.at i).nfrag (.dbiNext i)) →
    outputs s₁ a ++ outputs s₂ b = outputs s₃ c ∧ b.dcr = c.dcr ∧
      (b.dbi.at i).residI = (c.dbi.at i).residI ∧ (b.dbi.at i).residQ = (c.dbi.at i).residQ

/-! The channel output processor. -/

/-- `COP.OPEN` with sizes in range opens a closed channel: empty queue, no overflow, counters 0, gain 1.0, no correction,
nothing assembled; otherwise it is an argument error, and so it is on an opened channel (R301, R38). -/
def Obligations.ChannelOpens : Prop :=
  ∀ (s : State) (c : Inst) (cap rec out : Word), c.toNat < s.params.nCop →
    let sizesOk := 1 ≤ rec.toNat ∧ rec.toNat ≤ cap.toNat ∧ cap.toNat ≤ s.params.maxQcap ∧
      1 ≤ out.toNat ∧ out.toNat ≤ s.params.maxBlock
    ((s.cop.at c).opened = false → sizesOk → exec (.copOpen c cap rec out) s = .next { s with
      cop := s.cop.put c {
        opened := true, capacity := cap, recovery := rec, outblk := out, queue := [], ovf := false, drops := 0
        blkerr := 0, gain := 0x3F800000, finc := 0, fphase := 0, asm := [], asmTs := 0
        inflight := (s.cop.at c).inflight }
      rsp := s.rsp ++ [[0x00000000]] }) ∧
    ((s.cop.at c).opened = true ∨ ¬sizesOk →
      exec (.copOpen c cap rec out) s = .next (s.raise .invalidArgument ⟨11, 0, c⟩))

/-- `COP.SUBMIT` on an opened channel never blocks: below capacity the block is appended under its tag and nothing else
changes, `INFO` 1; at capacity the new block is dropped, `DROPS` counts it, the first refusal sets `OVF` and notifies, and
the status is still `OK`, `INFO` 0 (R303, R306, R307, R308, R309). -/
def Obligations.SubmitAcceptsOrDropsNewest : Prop :=
  ∀ (s : State) (c : Inst) (lo hi : Word) (x : List Cplx), c.toNat < s.params.nCop → (s.cop.at c).opened = true →
    x.length ≤ s.params.maxBlock →
    let q := s.cop.at c
    (q.queue.length ≠ q.capacity.toNat → exec (.copSubmit c lo hi x) s = .next { s with
      cop := s.cop.put c { q with queue := q.queue ++ [⟨BitVec.ofNat 64 (hi.toNat * 2 ^ 32 + lo.toNat), x⟩] }
      rsp := s.rsp ++ [[0x00000100]] }) ∧
    (q.queue.length = q.capacity.toNat → exec (.copSubmit c lo hi x) s = .next { s with
      cop := s.cop.put c { q with drops := BitVec.ofNat 32 (min (q.drops.toNat + 1) (2 ^ 32 - 1)), ovf := true }
      notif := if q.ovf then s.notif else s.notif ++ [BitVec.ofNat 32 (1 + 16 * c.toNat)]
      rsp := s.rsp ++ [[0x00000000]] })

/-- Phase 1 of `COP.DRAIN` on an opened channel removes the oldest min(`maxItems`, `OCC`) blocks, into `INFLIGHT`, and
clears `OVF` with its event exactly when fewer than `RECOVERY` are left; the response waits for phase 2 (R310, R311,
R312). -/
def Obligations.DrainDequeuesTheOldest : Prop :=
  ∀ (s : State) (c : Inst) (m : BitVec 22), c.toNat < s.params.nCop → (s.cop.at c).opened = true →
    let q := s.cop.at c
    let k := min m.toNat q.queue.length
    let clears := q.ovf = true ∧ q.queue.length - k < q.recovery.toNat
    ∃ t : State, exec (.copDrain c m) s = .next t ∧
      t = { s with
        cop := s.cop.put c { q with
          queue := q.queue.drop k
          inflight := some (q.queue.take k)
          ovf := (t.cop.at c).ovf }
        notif := t.notif } ∧
      (clears → (t.cop.at c).ovf = false ∧ t.notif = s.notif ++ [BitVec.ofNat 32 (2 + 16 * c.toNat)]) ∧
      (¬clears → (t.cop.at c).ovf = q.ovf ∧ t.notif = s.notif)

/-- Phase 2 of `COP.DRAIN`, with fault isolation: the blocks that do not fault are processed in order as if the others had
not been queued; each faulting one is counted and logged; the response is `OK` with all drained blocks in `INFO`, the
count of completed output blocks and their words; each of those is notified; nothing else changes (R312, R318, R323). The
count word is the number of output blocks below 2^32; past that nothing is said of it (log entry 22). -/
def Obligations.DrainProcessesWithFaultIsolation : Prop :=
  (∀ n : Nat, n < 2 ^ 32 → countWord n = BitVec.ofNat 32 n) ∧
  (∀ (s : State) (c : Inst) (bs : List Block), (s.cop.at c).inflight = some bs →
    let bad := bs.filter (blockFault s.params)
    let r := processAll s.params (s.cop.at c) (bs.filter fun b => !blockFault s.params b)
    finishDrain s c = { s with
      cop := s.cop.put c { r.1 with
        blkerr := BitVec.ofNat 32 (min ((s.cop.at c).blkerr.toNat + bad.length) (2 ^ 32 - 1))
        inflight := none }
      sys := { s.sys with
        errflags := if bad = [] then s.sys.errflags else s.sys.errflags ||| 0x40#32
        lasterr := if bad = [] then s.sys.lasterr
          else BitVec.ofNat 32 (6 + 2 ^ 8 * 11 + 2 ^ 12 * 2 + 2 ^ 14 * c.toNat) }
      rsp := s.rsp ++ [responseWord .ok bs.length :: countWord r.2.length :: r.2.flatMap fun o =>
        BitVec.ofNat 32 (o.ts.toNat % 2 ^ 32) :: BitVec.ofNat 32 (o.ts.toNat / 2 ^ 32) :: interleave o.data]
      notif := s.notif ++ List.replicate r.2.length (BitVec.ofNat 32 (3 + 16 * c.toNat)) })

/-- The processing of a block. Correction and gain: with `FINC` 0 the samples pass bit for bit and `FPHASE` stays, otherwise
sample n is mixed with the oscillator at `FPHASE` + n * `FINC`, which runs on; then every word is multiplied by `GAIN`.
Reassembly loses, adds and reorders no sample: the output blocks of a block, then what stays in `ASM`, are what was in
`ASM`, then the block's processed samples; every output block has `OUTBLK` samples, and `FILL` stays below `OUTBLK`; the
first output block carries the tag held with the samples in `ASM`, or the block's own where `ASM` was empty, every later
one the block's own; nothing else of the channel changes (R313, R316, R319, R321, R322). -/
def Obligations.ProcessingLosesNoSample : Prop :=
  (∀ (P : Params) (q : Cop) (b : Block),
      (processBlock P q b).1.fphase =
        (if q.finc = 0#32 then q.fphase else q.fphase + BitVec.ofNat 32 b.data.length * q.finc) ∧
      (stageSamples P q b).length = b.data.length ∧
      (∀ (n : Nat) (v : Cplx), b.data[n]? = some v →
        let p := q.fphase + BitVec.ofNat 32 n * q.finc
        let w : Cplx := if q.finc = 0#32 then v
          else (fsub (fmul v.1 (ncoCos P p)) (fmul v.2 (ncoSin P p)), fadd (fmul v.2 (ncoCos P p)) (fmul v.1 (ncoSin P p)))
        (stageSamples P q b)[n]? = some (fmul w.1 q.gain, fmul w.2 q.gain))) ∧
  (∀ (P : Params) (q : Cop) (b : Block), q.asm.length < q.outblk.toNat →
      let r := processBlock P q b
      r.2.flatMap OutBlock.data ++ r.1.asm = q.asm ++ stageSamples P q b ∧
      (∀ o ∈ r.2, o.data.length = q.outblk.toNat) ∧ r.1.asm.length < q.outblk.toNat ∧
      (∀ (k : Nat) (o : OutBlock), r.2[k]? = some o → o.ts = if k = 0 ∧ q.asm ≠ [] then q.asmTs else b.ts) ∧
      (r.1.asm ≠ [] → r.1.asmTs = if r.2 = [] ∧ q.asm ≠ [] then q.asmTs else b.ts) ∧
      r.1 = { q with asm := r.1.asm, asmTs := r.1.asmTs, fphase := r.1.fphase })

/-- `COP.DETACH` of an opened channel discards its queue and what is assembled, silently; every register of it reads 0
from then on and a later `COP.SUBMIT` finds it not opened; on a channel that is not opened `COP.DETACH`, `COP.SUBMIT` and
`COP.DRAIN` are `NotConstructedError` (R325, R406). -/
def Obligations.DetachDiscardsSilently : Prop :=
  ∀ (s : State) (c : Inst), c.toNat < s.params.nCop →
    ((s.cop.at c).opened = true → ∃ t : State, exec (.copDetach c) s = .next t ∧
      (t.cop.at c).opened = false ∧ (t.cop.at c).queue = [] ∧ (t.cop.at c).asm = [] ∧ (t.cop.at c).ovf = false ∧
      (t.cop.at c).fphase = 0#32 ∧ (t.cop.at c).inflight = (s.cop.at c).inflight ∧
      t = { s with cop := s.cop.put c (t.cop.at c), rsp := s.rsp ++ [[0x00000000]] } ∧
      ∀ (n : Nat) (v : Word), readReg t .cop c n = some v → v = 0#32) ∧
    ((s.cop.at c).opened = false →
      exec (.copDetach c) s = .next (s.raise .notConstructed ⟨11, 3, c⟩) ∧
      (∀ (lo hi : Word) (x : List Cplx),
        exec (.copSubmit c lo hi x) s = .next (s.raise .notConstructed ⟨11, 1, c⟩)) ∧
      (∀ m : BitVec 22, exec (.copDrain c m) s = .next (s.raise .notConstructed ⟨11, 2, c⟩))) ∧
    ((s.cop.at c).opened = true → ∀ (lo hi : Word) (x : List Cplx), s.params.maxBlock < x.length →
      exec (.copSubmit c lo hi x) s = .next (s.raise .invalidBlockSize ⟨11, 1, c⟩))

/-- The queue is a FIFO of the accepted blocks: a command leaves it as it is, appends the submitted block, removes the
oldest ones in order, or empties it by opening, detaching or reset; phase 2 of a drain does not touch it (R39 (d),
R89). -/
def Obligations.QueueIsFifo : Prop :=
  (∀ (i : Instr) (s t : State) (c : Inst), exec i s = .next t →
    (t.cop.at c).queue = (s.cop.at c).queue ∨
    (∃ (lo hi : Word) (x : List Cplx), i = .copSubmit c lo hi x ∧
      (s.cop.at c).queue.length ≠ (s.cop.at c).capacity.toNat ∧
      (t.cop.at c).queue = (s.cop.at c).queue ++ [⟨hi ++ lo, x⟩]) ∨
    (∃ (m : BitVec 22) (out : List Block), i = .copDrain c m ∧ (t.cop.at c).inflight = some out ∧
      out.length = min m.toNat (s.cop.at c).queue.length ∧
      out ++ (t.cop.at c).queue = (s.cop.at c).queue) ∨
    ((t.cop.at c).queue = [] ∧
      (i = .sysReset ∨ i = .copDetach c ∨ ∃ cap rec out : Word, i = .copOpen c cap rec out))) ∧
  (∀ (s : State) (c d : Inst), ((finishDrain s c).cop.at d).queue = (s.cop.at d).queue)

/-- Backpressure accounting: N submissions to an empty channel that is not overflowing, N > `CAPACITY`, with no drain, are
accepted up to `CAPACITY` and refused exactly N - `CAPACITY` times, with one `OVF_ENTERED`; and however the channel is
drained afterwards, `OVF_CLEARED` is notified exactly once if the drains bring the occupancy below `RECOVERY`, and not at
all if they do not (R326). -/
def Obligations.BackpressureAccounting : Prop :=
  ∀ (s : State) (c : Inst) (subs : List (Word × Word × List Cplx)) (ms : List (BitVec 22)),
    c.toNat < s.params.nCop → (s.cop.at c).opened = true → (s.cop.at c).queue = [] → (s.cop.at c).ovf = false →
    (s.cop.at c).drops = 0#32 → 1 ≤ (s.cop.at c).recovery.toNat →
    (s.cop.at c).recovery.toNat ≤ (s.cop.at c).capacity.toNat →
    (∀ b ∈ subs, b.2.2.length ≤ s.params.maxBlock) → (s.cop.at c).capacity.toNat < subs.length →
    subs.length < 2 ^ 32 →
    let cap := (s.cop.at c).capacity.toNat
    let t := s.run (subs.map fun b => .copSubmit c b.1 b.2.1 b.2.2)
    let d := t.drains c ms
    t.rsp = s.rsp ++ List.replicate cap [0x00000100#32] ++ List.replicate (subs.length - cap) [0x00000000#32] ∧
    (t.cop.at c).queue = (subs.take cap).map (fun b => (⟨b.2.1 ++ b.1, b.2.2⟩ : Block)) ∧
    (t.cop.at c).drops.toNat = subs.length - cap ∧ (t.cop.at c).ovf = true ∧
    t.notif = s.notif ++ [BitVec.ofNat 32 (1 + 16 * c.toNat)] ∧
    (d.notif.drop t.notif.length).count (BitVec.ofNat 32 (2 + 16 * c.toNat)) =
      if cap - (ms.map BitVec.toNat).sum < (s.cop.at c).recovery.toNat then 1 else 0

/-- The hand-off through the queue: phase 2 of a drain touches nothing the producer side touches, so a legal
`COP.SUBMIT` before it or after it gives the same state, up to the order of the two responses and of the
notifications (R312, R88). -/
def Obligations.SubmitCommutesWithProcessing : Prop :=
  ∀ (s a b : State) (c : Inst) (lo hi : Word) (x : List Cplx), c.toNat < s.params.nCop →
    (s.cop.at c).opened = true → x.length ≤ s.params.maxBlock →
    exec (.copSubmit c lo hi x) s = .next a → exec (.copSubmit c lo hi x) (finishDrain s c) = .next b →
    (finishDrain a c).rsp.Perm b.rsp ∧ (finishDrain a c).notif.Perm b.notif ∧
      { finishDrain a c with rsp := b.rsp, notif := b.notif } = b

/-- Draining in two goes is draining in one: the correction oscillator and the reassembly run on across drains, so the
channel, the error record and the output words are the same, with the notifications up to their order (R310, R316, R321). -/
def Obligations.DrainsRunOn : Prop :=
  ∀ (s : State) (c : Inst) (m₁ m₂ m : BitVec 22), c.toNat < s.params.nCop → (s.cop.at c).opened = true →
    m.toNat = m₁.toNat + m₂.toNat →
    ∃ (k₁ k₂ n₁ n₂ : Nat) (w₁ w₂ : List Word),
      (s.drains c [m₁, m₂]).rsp = s.rsp ++ [responseWord .ok k₁ :: countWord n₁ :: w₁,
        responseWord .ok k₂ :: countWord n₂ :: w₂] ∧
      (s.drains c [m]).rsp = s.rsp ++ [responseWord .ok (k₁ + k₂) :: countWord (n₁ + n₂) :: (w₁ ++ w₂)] ∧
      (s.drains c [m₁, m₂]).cop = (s.drains c [m]).cop ∧ (s.drains c [m₁, m₂]).sys = (s.drains c [m]).sys ∧
      (s.drains c [m₁, m₂]).notif.Perm (s.drains c [m]).notif
end

