-- ==== Sys2Proof/Laws/State.lean ====
section
/-! SUPPORT. Sys2Proof/Laws/State.lean: for each named update of the state, one lemma per field, true by rfl, so that no
proof unfolds a record update; and the laws of the banks of slots. -/

namespace Sys2Proof.Machine

/-! Banks. -/

@[simp] theorem Bank.at_put_self {α : Type} (b : Bank α) (i : Inst) (u : α) : (b.put i u).at i = u := by
  simp [Bank.at, Bank.put]

@[simp] theorem Bank.at_put_ne {α : Type} (b : Bank α) {i j : Inst} (u : α) (h : j ≠ i) :
    (b.put i u).at j = b.at j := by
  have h' : i.toNat ≠ j.toNat := fun e => h (BitVec.eq_of_toNat_eq e.symm)
  simp [Bank.at, Bank.put, h']

theorem Bank.at_put {α : Type} (b : Bank α) (i j : Inst) (u : α) :
    (b.put i u).at j = if j = i then u else b.at j := by
  by_cases h : j = i
  · subst h; simp
  · simp [h]

@[simp] theorem Bank.at_fill {α : Type} (u : α) (i : Inst) : (Bank.fill u).at i = u := by
  simp [Bank.at, Bank.fill]

/-- Two banks with equal slots are equal. -/
theorem Bank.ext_at {α : Type} {b c : Bank α} (h : ∀ i, b.at i = c.at i) : b = c := by
  refine Vector.ext fun k hk => ?_
  have := h (BitVec.ofNat 4 k)
  have e : (BitVec.ofNat 4 k).toNat = k := by rw [BitVec.toNat_ofNat, Nat.mod_eq_of_lt (by omega)]
  simpa only [Bank.at, e] using this

/-- Putting back what a slot holds changes nothing. -/
theorem Bank.put_at {α : Type} (b : Bank α) (i : Inst) : b.put i (b.at i) = b :=
  Bank.ext_at fun j => by rw [Bank.at_put]; split <;> simp_all

theorem Bank.put_put {α : Type} (b : Bank α) (i : Inst) (u v : α) : (b.put i u).put i v = b.put i v :=
  Bank.ext_at fun j => by simp only [Bank.at_put]; split <;> rfl

/-! Updates. -/

@[simp] theorem State.putFirr_params (s : State) (i : Inst) (u : Fir F32) : (s.putFirr i u).params = s.params := rfl
@[simp] theorem State.putFirr_sys (s : State) (i : Inst) (u : Fir F32) : (s.putFirr i u).sys = s.sys := rfl
@[simp] theorem State.putFirr_firr (s : State) (i : Inst) (u : Fir F32) : (s.putFirr i u).firr = s.firr.put i u := rfl
@[simp] theorem State.putFirr_firc (s : State) (i : Inst) (u : Fir F32) : (s.putFirr i u).firc = s.firc := rfl
@[simp] theorem State.putFirr_hbr (s : State) (i : Inst) (u : Fir F32) : (s.putFirr i u).hbr = s.hbr := rfl
@[simp] theorem State.putFirr_hbc (s : State) (i : Inst) (u : Fir F32) : (s.putFirr i u).hbc = s.hbc := rfl
@[simp] theorem State.putFirr_hil (s : State) (i : Inst) (u : Fir F32) : (s.putFirr i u).hil = s.hil := rfl
@[simp] theorem State.putFirr_dcr (s : State) (i : Inst) (u : Fir F32) : (s.putFirr i u).dcr = s.dcr := rfl
@[simp] theorem State.putFirr_nco (s : State) (i : Inst) (u : Fir F32) : (s.putFirr i u).nco = s.nco := rfl
@[simp] theorem State.putFirr_mix (s : State) (i : Inst) (u : Fir F32) : (s.putFirr i u).mix = s.mix := rfl
@[simp] theorem State.putFirr_fmd (s : State) (i : Inst) (u : Fir F32) : (s.putFirr i u).fmd = s.fmd := rfl
@[simp] theorem State.putFirr_dbi (s : State) (i : Inst) (u : Fir F32) : (s.putFirr i u).dbi = s.dbi := rfl
@[simp] theorem State.putFirr_cop (s : State) (i : Inst) (u : Fir F32) : (s.putFirr i u).cop = s.cop := rfl
@[simp] theorem State.putFirr_cmd (s : State) (i : Inst) (u : Fir F32) : (s.putFirr i u).cmd = s.cmd := rfl
@[simp] theorem State.putFirr_rsp (s : State) (i : Inst) (u : Fir F32) : (s.putFirr i u).rsp = s.rsp := rfl
@[simp] theorem State.putFirr_notif (s : State) (i : Inst) (u : Fir F32) : (s.putFirr i u).notif = s.notif := rfl
@[simp] theorem State.putFirr_picks (s : State) (i : Inst) (u : Fir F32) : (s.putFirr i u).picks = s.picks := rfl

@[simp] theorem State.putFirc_params (s : State) (i : Inst) (u : Fir Cplx) : (s.putFirc i u).params = s.params := rfl
@[simp] theorem State.putFirc_sys (s : State) (i : Inst) (u : Fir Cplx) : (s.putFirc i u).sys = s.sys := rfl
@[simp] theorem State.putFirc_firr (s : State) (i : Inst) (u : Fir Cplx) : (s.putFirc i u).firr = s.firr := rfl
@[simp] theorem State.putFirc_firc (s : State) (i : Inst) (u : Fir Cplx) : (s.putFirc i u).firc = s.firc.put i u := rfl
@[simp] theorem State.putFirc_hbr (s : State) (i : Inst) (u : Fir Cplx) : (s.putFirc i u).hbr = s.hbr := rfl
@[simp] theorem State.putFirc_hbc (s : State) (i : Inst) (u : Fir Cplx) : (s.putFirc i u).hbc = s.hbc := rfl
@[simp] theorem State.putFirc_hil (s : State) (i : Inst) (u : Fir Cplx) : (s.putFirc i u).hil = s.hil := rfl
@[simp] theorem State.putFirc_dcr (s : State) (i : Inst) (u : Fir Cplx) : (s.putFirc i u).dcr = s.dcr := rfl
@[simp] theorem State.putFirc_nco (s : State) (i : Inst) (u : Fir Cplx) : (s.putFirc i u).nco = s.nco := rfl
@[simp] theorem State.putFirc_mix (s : State) (i : Inst) (u : Fir Cplx) : (s.putFirc i u).mix = s.mix := rfl
@[simp] theorem State.putFirc_fmd (s : State) (i : Inst) (u : Fir Cplx) : (s.putFirc i u).fmd = s.fmd := rfl
@[simp] theorem State.putFirc_dbi (s : State) (i : Inst) (u : Fir Cplx) : (s.putFirc i u).dbi = s.dbi := rfl
@[simp] theorem State.putFirc_cop (s : State) (i : Inst) (u : Fir Cplx) : (s.putFirc i u).cop = s.cop := rfl
@[simp] theorem State.putFirc_cmd (s : State) (i : Inst) (u : Fir Cplx) : (s.putFirc i u).cmd = s.cmd := rfl
@[simp] theorem State.putFirc_rsp (s : State) (i : Inst) (u : Fir Cplx) : (s.putFirc i u).rsp = s.rsp := rfl
@[simp] theorem State.putFirc_notif (s : State) (i : Inst) (u : Fir Cplx) : (s.putFirc i u).notif = s.notif := rfl
@[simp] theorem State.putFirc_picks (s : State) (i : Inst) (u : Fir Cplx) : (s.putFirc i u).picks = s.picks := rfl

@[simp] theorem State.putHbr_params (s : State) (i : Inst) (u : Hb F32) : (s.putHbr i u).params = s.params := rfl
@[simp] theorem State.putHbr_sys (s : State) (i : Inst) (u : Hb F32) : (s.putHbr i u).sys = s.sys := rfl
@[simp] theorem State.putHbr_firr (s : State) (i : Inst) (u : Hb F32) : (s.putHbr i u).firr = s.firr := rfl
@[simp] theorem State.putHbr_firc (s : State) (i : Inst) (u : Hb F32) : (s.putHbr i u).firc = s.firc := rfl
@[simp] theorem State.putHbr_hbr (s : State) (i : Inst) (u : Hb F32) : (s.putHbr i u).hbr = s.hbr.put i u := rfl
@[simp] theorem State.putHbr_hbc (s : State) (i : Inst) (u : Hb F32) : (s.putHbr i u).hbc = s.hbc := rfl
@[simp] theorem State.putHbr_hil (s : State) (i : Inst) (u : Hb F32) : (s.putHbr i u).hil = s.hil := rfl
@[simp] theorem State.putHbr_dcr (s : State) (i : Inst) (u : Hb F32) : (s.putHbr i u).dcr = s.dcr := rfl
@[simp] theorem State.putHbr_nco (s : State) (i : Inst) (u : Hb F32) : (s.putHbr i u).nco = s.nco := rfl
@[simp] theorem State.putHbr_mix (s : State) (i : Inst) (u : Hb F32) : (s.putHbr i u).mix = s.mix := rfl
@[simp] theorem State.putHbr_fmd (s : State) (i : Inst) (u : Hb F32) : (s.putHbr i u).fmd = s.fmd := rfl
@[simp] theorem State.putHbr_dbi (s : State) (i : Inst) (u : Hb F32) : (s.putHbr i u).dbi = s.dbi := rfl
@[simp] theorem State.putHbr_cop (s : State) (i : Inst) (u : Hb F32) : (s.putHbr i u).cop = s.cop := rfl
@[simp] theorem State.putHbr_cmd (s : State) (i : Inst) (u : Hb F32) : (s.putHbr i u).cmd = s.cmd := rfl
@[simp] theorem State.putHbr_rsp (s : State) (i : Inst) (u : Hb F32) : (s.putHbr i u).rsp = s.rsp := rfl
@[simp] theorem State.putHbr_notif (s : State) (i : Inst) (u : Hb F32) : (s.putHbr i u).notif = s.notif := rfl
@[simp] theorem State.putHbr_picks (s : State) (i : Inst) (u : Hb F32) : (s.putHbr i u).picks = s.picks := rfl

@[simp] theorem State.putHbc_params (s : State) (i : Inst) (u : Hb Cplx) : (s.putHbc i u).params = s.params := rfl
@[simp] theorem State.putHbc_sys (s : State) (i : Inst) (u : Hb Cplx) : (s.putHbc i u).sys = s.sys := rfl
@[simp] theorem State.putHbc_firr (s : State) (i : Inst) (u : Hb Cplx) : (s.putHbc i u).firr = s.firr := rfl
@[simp] theorem State.putHbc_firc (s : State) (i : Inst) (u : Hb Cplx) : (s.putHbc i u).firc = s.firc := rfl
@[simp] theorem State.putHbc_hbr (s : State) (i : Inst) (u : Hb Cplx) : (s.putHbc i u).hbr = s.hbr := rfl
@[simp] theorem State.putHbc_hbc (s : State) (i : Inst) (u : Hb Cplx) : (s.putHbc i u).hbc = s.hbc.put i u := rfl
@[simp] theorem State.putHbc_hil (s : State) (i : Inst) (u : Hb Cplx) : (s.putHbc i u).hil = s.hil := rfl
@[simp] theorem State.putHbc_dcr (s : State) (i : Inst) (u : Hb Cplx) : (s.putHbc i u).dcr = s.dcr := rfl
@[simp] theorem State.putHbc_nco (s : State) (i : Inst) (u : Hb Cplx) : (s.putHbc i u).nco = s.nco := rfl
@[simp] theorem State.putHbc_mix (s : State) (i : Inst) (u : Hb Cplx) : (s.putHbc i u).mix = s.mix := rfl
@[simp] theorem State.putHbc_fmd (s : State) (i : Inst) (u : Hb Cplx) : (s.putHbc i u).fmd = s.fmd := rfl
@[simp] theorem State.putHbc_dbi (s : State) (i : Inst) (u : Hb Cplx) : (s.putHbc i u).dbi = s.dbi := rfl
@[simp] theorem State.putHbc_cop (s : State) (i : Inst) (u : Hb Cplx) : (s.putHbc i u).cop = s.cop := rfl
@[simp] theorem State.putHbc_cmd (s : State) (i : Inst) (u : Hb Cplx) : (s.putHbc i u).cmd = s.cmd := rfl
@[simp] theorem State.putHbc_rsp (s : State) (i : Inst) (u : Hb Cplx) : (s.putHbc i u).rsp = s.rsp := rfl
@[simp] theorem State.putHbc_notif (s : State) (i : Inst) (u : Hb Cplx) : (s.putHbc i u).notif = s.notif := rfl
@[simp] theorem State.putHbc_picks (s : State) (i : Inst) (u : Hb Cplx) : (s.putHbc i u).picks = s.picks := rfl

@[simp] theorem State.putHil_params (s : State) (i : Inst) (u : Hil) : (s.putHil i u).params = s.params := rfl
@[simp] theorem State.putHil_sys (s : State) (i : Inst) (u : Hil) : (s.putHil i u).sys = s.sys := rfl
@[simp] theorem State.putHil_firr (s : State) (i : Inst) (u : Hil) : (s.putHil i u).firr = s.firr := rfl
@[simp] theorem State.putHil_firc (s : State) (i : Inst) (u : Hil) : (s.putHil i u).firc = s.firc := rfl
@[simp] theorem State.putHil_hbr (s : State) (i : Inst) (u : Hil) : (s.putHil i u).hbr = s.hbr := rfl
@[simp] theorem State.putHil_hbc (s : State) (i : Inst) (u : Hil) : (s.putHil i u).hbc = s.hbc := rfl
@[simp] theorem State.putHil_hil (s : State) (i : Inst) (u : Hil) : (s.putHil i u).hil = s.hil.put i u := rfl
@[simp] theorem State.putHil_dcr (s : State) (i : Inst) (u : Hil) : (s.putHil i u).dcr = s.dcr := rfl
@[simp] theorem State.putHil_nco (s : State) (i : Inst) (u : Hil) : (s.putHil i u).nco = s.nco := rfl
@[simp] theorem State.putHil_mix (s : State) (i : Inst) (u : Hil) : (s.putHil i u).mix = s.mix := rfl
@[simp] theorem State.putHil_fmd (s : State) (i : Inst) (u : Hil) : (s.putHil i u).fmd = s.fmd := rfl
@[simp] theorem State.putHil_dbi (s : State) (i : Inst) (u : Hil) : (s.putHil i u).dbi = s.dbi := rfl
@[simp] theorem State.putHil_cop (s : State) (i : Inst) (u : Hil) : (s.putHil i u).cop = s.cop := rfl
@[simp] theorem State.putHil_cmd (s : State) (i : Inst) (u : Hil) : (s.putHil i u).cmd = s.cmd := rfl
@[simp] theorem State.putHil_rsp (s : State) (i : Inst) (u : Hil) : (s.putHil i u).rsp = s.rsp := rfl
@[simp] theorem State.putHil_notif (s : State) (i : Inst) (u : Hil) : (s.putHil i u).notif = s.notif := rfl
@[simp] theorem State.putHil_picks (s : State) (i : Inst) (u : Hil) : (s.putHil i u).picks = s.picks := rfl

@[simp] theorem State.putDcr_params (s : State) (i : Inst) (u : Dcr) : (s.putDcr i u).params = s.params := rfl
@[simp] theorem State.putDcr_sys (s : State) (i : Inst) (u : Dcr) : (s.putDcr i u).sys = s.sys := rfl
@[simp] theorem State.putDcr_firr (s : State) (i : Inst) (u : Dcr) : (s.putDcr i u).firr = s.firr := rfl
@[simp] theorem State.putDcr_firc (s : State) (i : Inst) (u : Dcr) : (s.putDcr i u).firc = s.firc := rfl
@[simp] theorem State.putDcr_hbr (s : State) (i : Inst) (u : Dcr) : (s.putDcr i u).hbr = s.hbr := rfl
@[simp] theorem State.putDcr_hbc (s : State) (i : Inst) (u : Dcr) : (s.putDcr i u).hbc = s.hbc := rfl
@[simp] theorem State.putDcr_hil (s : State) (i : Inst) (u : Dcr) : (s.putDcr i u).hil = s.hil := rfl
@[simp] theorem State.putDcr_dcr (s : State) (i : Inst) (u : Dcr) : (s.putDcr i u).dcr = s.dcr.put i u := rfl
@[simp] theorem State.putDcr_nco (s : State) (i : Inst) (u : Dcr) : (s.putDcr i u).nco = s.nco := rfl
@[simp] theorem State.putDcr_mix (s : State) (i : Inst) (u : Dcr) : (s.putDcr i u).mix = s.mix := rfl
@[simp] theorem State.putDcr_fmd (s : State) (i : Inst) (u : Dcr) : (s.putDcr i u).fmd = s.fmd := rfl
@[simp] theorem State.putDcr_dbi (s : State) (i : Inst) (u : Dcr) : (s.putDcr i u).dbi = s.dbi := rfl
@[simp] theorem State.putDcr_cop (s : State) (i : Inst) (u : Dcr) : (s.putDcr i u).cop = s.cop := rfl
@[simp] theorem State.putDcr_cmd (s : State) (i : Inst) (u : Dcr) : (s.putDcr i u).cmd = s.cmd := rfl
@[simp] theorem State.putDcr_rsp (s : State) (i : Inst) (u : Dcr) : (s.putDcr i u).rsp = s.rsp := rfl
@[simp] theorem State.putDcr_notif (s : State) (i : Inst) (u : Dcr) : (s.putDcr i u).notif = s.notif := rfl
@[simp] theorem State.putDcr_picks (s : State) (i : Inst) (u : Dcr) : (s.putDcr i u).picks = s.picks := rfl

@[simp] theorem State.putNco_params (s : State) (i : Inst) (u : Nco) : (s.putNco i u).params = s.params := rfl
@[simp] theorem State.putNco_sys (s : State) (i : Inst) (u : Nco) : (s.putNco i u).sys = s.sys := rfl
@[simp] theorem State.putNco_firr (s : State) (i : Inst) (u : Nco) : (s.putNco i u).firr = s.firr := rfl
@[simp] theorem State.putNco_firc (s : State) (i : Inst) (u : Nco) : (s.putNco i u).firc = s.firc := rfl
@[simp] theorem State.putNco_hbr (s : State) (i : Inst) (u : Nco) : (s.putNco i u).hbr = s.hbr := rfl
@[simp] theorem State.putNco_hbc (s : State) (i : Inst) (u : Nco) : (s.putNco i u).hbc = s.hbc := rfl
@[simp] theorem State.putNco_hil (s : State) (i : Inst) (u : Nco) : (s.putNco i u).hil = s.hil := rfl
@[simp] theorem State.putNco_dcr (s : State) (i : Inst) (u : Nco) : (s.putNco i u).dcr = s.dcr := rfl
@[simp] theorem State.putNco_nco (s : State) (i : Inst) (u : Nco) : (s.putNco i u).nco = s.nco.put i u := rfl
@[simp] theorem State.putNco_mix (s : State) (i : Inst) (u : Nco) : (s.putNco i u).mix = s.mix := rfl
@[simp] theorem State.putNco_fmd (s : State) (i : Inst) (u : Nco) : (s.putNco i u).fmd = s.fmd := rfl
@[simp] theorem State.putNco_dbi (s : State) (i : Inst) (u : Nco) : (s.putNco i u).dbi = s.dbi := rfl
@[simp] theorem State.putNco_cop (s : State) (i : Inst) (u : Nco) : (s.putNco i u).cop = s.cop := rfl
@[simp] theorem State.putNco_cmd (s : State) (i : Inst) (u : Nco) : (s.putNco i u).cmd = s.cmd := rfl
@[simp] theorem State.putNco_rsp (s : State) (i : Inst) (u : Nco) : (s.putNco i u).rsp = s.rsp := rfl
@[simp] theorem State.putNco_notif (s : State) (i : Inst) (u : Nco) : (s.putNco i u).notif = s.notif := rfl
@[simp] theorem State.putNco_picks (s : State) (i : Inst) (u : Nco) : (s.putNco i u).picks = s.picks := rfl

@[simp] theorem State.putMix_params (s : State) (i : Inst) (u : Mix) : (s.putMix i u).params = s.params := rfl
@[simp] theorem State.putMix_sys (s : State) (i : Inst) (u : Mix) : (s.putMix i u).sys = s.sys := rfl
@[simp] theorem State.putMix_firr (s : State) (i : Inst) (u : Mix) : (s.putMix i u).firr = s.firr := rfl
@[simp] theorem State.putMix_firc (s : State) (i : Inst) (u : Mix) : (s.putMix i u).firc = s.firc := rfl
@[simp] theorem State.putMix_hbr (s : State) (i : Inst) (u : Mix) : (s.putMix i u).hbr = s.hbr := rfl
@[simp] theorem State.putMix_hbc (s : State) (i : Inst) (u : Mix) : (s.putMix i u).hbc = s.hbc := rfl
@[simp] theorem State.putMix_hil (s : State) (i : Inst) (u : Mix) : (s.putMix i u).hil = s.hil := rfl
@[simp] theorem State.putMix_dcr (s : State) (i : Inst) (u : Mix) : (s.putMix i u).dcr = s.dcr := rfl
@[simp] theorem State.putMix_nco (s : State) (i : Inst) (u : Mix) : (s.putMix i u).nco = s.nco := rfl
@[simp] theorem State.putMix_mix (s : State) (i : Inst) (u : Mix) : (s.putMix i u).mix = s.mix.put i u := rfl
@[simp] theorem State.putMix_fmd (s : State) (i : Inst) (u : Mix) : (s.putMix i u).fmd = s.fmd := rfl
@[simp] theorem State.putMix_dbi (s : State) (i : Inst) (u : Mix) : (s.putMix i u).dbi = s.dbi := rfl
@[simp] theorem State.putMix_cop (s : State) (i : Inst) (u : Mix) : (s.putMix i u).cop = s.cop := rfl
@[simp] theorem State.putMix_cmd (s : State) (i : Inst) (u : Mix) : (s.putMix i u).cmd = s.cmd := rfl
@[simp] theorem State.putMix_rsp (s : State) (i : Inst) (u : Mix) : (s.putMix i u).rsp = s.rsp := rfl
@[simp] theorem State.putMix_notif (s : State) (i : Inst) (u : Mix) : (s.putMix i u).notif = s.notif := rfl
@[simp] theorem State.putMix_picks (s : State) (i : Inst) (u : Mix) : (s.putMix i u).picks = s.picks := rfl

@[simp] theorem State.putFmd_params (s : State) (i : Inst) (u : Fmd) : (s.putFmd i u).params = s.params := rfl
@[simp] theorem State.putFmd_sys (s : State) (i : Inst) (u : Fmd) : (s.putFmd i u).sys = s.sys := rfl
@[simp] theorem State.putFmd_firr (s : State) (i : Inst) (u : Fmd) : (s.putFmd i u).firr = s.firr := rfl
@[simp] theorem State.putFmd_firc (s : State) (i : Inst) (u : Fmd) : (s.putFmd i u).firc = s.firc := rfl
@[simp] theorem State.putFmd_hbr (s : State) (i : Inst) (u : Fmd) : (s.putFmd i u).hbr = s.hbr := rfl
@[simp] theorem State.putFmd_hbc (s : State) (i : Inst) (u : Fmd) : (s.putFmd i u).hbc = s.hbc := rfl
@[simp] theorem State.putFmd_hil (s : State) (i : Inst) (u : Fmd) : (s.putFmd i u).hil = s.hil := rfl
@[simp] theorem State.putFmd_dcr (s : State) (i : Inst) (u : Fmd) : (s.putFmd i u).dcr = s.dcr := rfl
@[simp] theorem State.putFmd_nco (s : State) (i : Inst) (u : Fmd) : (s.putFmd i u).nco = s.nco := rfl
@[simp] theorem State.putFmd_mix (s : State) (i : Inst) (u : Fmd) : (s.putFmd i u).mix = s.mix := rfl
@[simp] theorem State.putFmd_fmd (s : State) (i : Inst) (u : Fmd) : (s.putFmd i u).fmd = s.fmd.put i u := rfl
@[simp] theorem State.putFmd_dbi (s : State) (i : Inst) (u : Fmd) : (s.putFmd i u).dbi = s.dbi := rfl
@[simp] theorem State.putFmd_cop (s : State) (i : Inst) (u : Fmd) : (s.putFmd i u).cop = s.cop := rfl
@[simp] theorem State.putFmd_cmd (s : State) (i : Inst) (u : Fmd) : (s.putFmd i u).cmd = s.cmd := rfl
@[simp] theorem State.putFmd_rsp (s : State) (i : Inst) (u : Fmd) : (s.putFmd i u).rsp = s.rsp := rfl
@[simp] theorem State.putFmd_notif (s : State) (i : Inst) (u : Fmd) : (s.putFmd i u).notif = s.notif := rfl
@[simp] theorem State.putFmd_picks (s : State) (i : Inst) (u : Fmd) : (s.putFmd i u).picks = s.picks := rfl

@[simp] theorem State.putDbi_params (s : State) (i : Inst) (u : Dbi) : (s.putDbi i u).params = s.params := rfl
@[simp] theorem State.putDbi_sys (s : State) (i : Inst) (u : Dbi) : (s.putDbi i u).sys = s.sys := rfl
@[simp] theorem State.putDbi_firr (s : State) (i : Inst) (u : Dbi) : (s.putDbi i u).firr = s.firr := rfl
@[simp] theorem State.putDbi_firc (s : State) (i : Inst) (u : Dbi) : (s.putDbi i u).firc = s.firc := rfl
@[simp] theorem State.putDbi_hbr (s : State) (i : Inst) (u : Dbi) : (s.putDbi i u).hbr = s.hbr := rfl
@[simp] theorem State.putDbi_hbc (s : State) (i : Inst) (u : Dbi) : (s.putDbi i u).hbc = s.hbc := rfl
@[simp] theorem State.putDbi_hil (s : State) (i : Inst) (u : Dbi) : (s.putDbi i u).hil = s.hil := rfl
@[simp] theorem State.putDbi_dcr (s : State) (i : Inst) (u : Dbi) : (s.putDbi i u).dcr = s.dcr := rfl
@[simp] theorem State.putDbi_nco (s : State) (i : Inst) (u : Dbi) : (s.putDbi i u).nco = s.nco := rfl
@[simp] theorem State.putDbi_mix (s : State) (i : Inst) (u : Dbi) : (s.putDbi i u).mix = s.mix := rfl
@[simp] theorem State.putDbi_fmd (s : State) (i : Inst) (u : Dbi) : (s.putDbi i u).fmd = s.fmd := rfl
@[simp] theorem State.putDbi_dbi (s : State) (i : Inst) (u : Dbi) : (s.putDbi i u).dbi = s.dbi.put i u := rfl
@[simp] theorem State.putDbi_cop (s : State) (i : Inst) (u : Dbi) : (s.putDbi i u).cop = s.cop := rfl
@[simp] theorem State.putDbi_cmd (s : State) (i : Inst) (u : Dbi) : (s.putDbi i u).cmd = s.cmd := rfl
@[simp] theorem State.putDbi_rsp (s : State) (i : Inst) (u : Dbi) : (s.putDbi i u).rsp = s.rsp := rfl
@[simp] theorem State.putDbi_notif (s : State) (i : Inst) (u : Dbi) : (s.putDbi i u).notif = s.notif := rfl
@[simp] theorem State.putDbi_picks (s : State) (i : Inst) (u : Dbi) : (s.putDbi i u).picks = s.picks := rfl

@[simp] theorem State.putCop_params (s : State) (c : Inst) (u : Cop) : (s.putCop c u).params = s.params := rfl
@[simp] theorem State.putCop_sys (s : State) (c : Inst) (u : Cop) : (s.putCop c u).sys = s.sys := rfl
@[simp] theorem State.putCop_firr (s : State) (c : Inst) (u : Cop) : (s.putCop c u).firr = s.firr := rfl
@[simp] theorem State.putCop_firc (s : State) (c : Inst) (u : Cop) : (s.putCop c u).firc = s.firc := rfl
@[simp] theorem State.putCop_hbr (s : State) (c : Inst) (u : Cop) : (s.putCop c u).hbr = s.hbr := rfl
@[simp] theorem State.putCop_hbc (s : State) (c : Inst) (u : Cop) : (s.putCop c u).hbc = s.hbc := rfl
@[simp] theorem State.putCop_hil (s : State) (c : Inst) (u : Cop) : (s.putCop c u).hil = s.hil := rfl
@[simp] theorem State.putCop_dcr (s : State) (c : Inst) (u : Cop) : (s.putCop c u).dcr = s.dcr := rfl
@[simp] theorem State.putCop_nco (s : State) (c : Inst) (u : Cop) : (s.putCop c u).nco = s.nco := rfl
@[simp] theorem State.putCop_mix (s : State) (c : Inst) (u : Cop) : (s.putCop c u).mix = s.mix := rfl
@[simp] theorem State.putCop_fmd (s : State) (c : Inst) (u : Cop) : (s.putCop c u).fmd = s.fmd := rfl
@[simp] theorem State.putCop_dbi (s : State) (c : Inst) (u : Cop) : (s.putCop c u).dbi = s.dbi := rfl
@[simp] theorem State.putCop_cop (s : State) (c : Inst) (u : Cop) : (s.putCop c u).cop = s.cop.put c u := rfl
@[simp] theorem State.putCop_cmd (s : State) (c : Inst) (u : Cop) : (s.putCop c u).cmd = s.cmd := rfl
@[simp] theorem State.putCop_rsp (s : State) (c : Inst) (u : Cop) : (s.putCop c u).rsp = s.rsp := rfl
@[simp] theorem State.putCop_notif (s : State) (c : Inst) (u : Cop) : (s.putCop c u).notif = s.notif := rfl
@[simp] theorem State.putCop_picks (s : State) (c : Inst) (u : Cop) : (s.putCop c u).picks = s.picks := rfl

@[simp] theorem State.putSys_params (s : State) (u : Sys) : (s.putSys u).params = s.params := rfl
@[simp] theorem State.putSys_sys (s : State) (u : Sys) : (s.putSys u).sys = u := rfl
@[simp] theorem State.putSys_firr (s : State) (u : Sys) : (s.putSys u).firr = s.firr := rfl
@[simp] theorem State.putSys_firc (s : State) (u : Sys) : (s.putSys u).firc = s.firc := rfl
@[simp] theorem State.putSys_hbr (s : State) (u : Sys) : (s.putSys u).hbr = s.hbr := rfl
@[simp] theorem State.putSys_hbc (s : State) (u : Sys) : (s.putSys u).hbc = s.hbc := rfl
@[simp] theorem State.putSys_hil (s : State) (u : Sys) : (s.putSys u).hil = s.hil := rfl
@[simp] theorem State.putSys_dcr (s : State) (u : Sys) : (s.putSys u).dcr = s.dcr := rfl
@[simp] theorem State.putSys_nco (s : State) (u : Sys) : (s.putSys u).nco = s.nco := rfl
@[simp] theorem State.putSys_mix (s : State) (u : Sys) : (s.putSys u).mix = s.mix := rfl
@[simp] theorem State.putSys_fmd (s : State) (u : Sys) : (s.putSys u).fmd = s.fmd := rfl
@[simp] theorem State.putSys_dbi (s : State) (u : Sys) : (s.putSys u).dbi = s.dbi := rfl
@[simp] theorem State.putSys_cop (s : State) (u : Sys) : (s.putSys u).cop = s.cop := rfl
@[simp] theorem State.putSys_cmd (s : State) (u : Sys) : (s.putSys u).cmd = s.cmd := rfl
@[simp] theorem State.putSys_rsp (s : State) (u : Sys) : (s.putSys u).rsp = s.rsp := rfl
@[simp] theorem State.putSys_notif (s : State) (u : Sys) : (s.putSys u).notif = s.notif := rfl
@[simp] theorem State.putSys_picks (s : State) (u : Sys) : (s.putSys u).picks = s.picks := rfl

@[simp] theorem State.respond_params (s : State) (e : Status) (n : Nat) (p : List Word) : (s.respond e n p).params = s.params := rfl
@[simp] theorem State.respond_sys (s : State) (e : Status) (n : Nat) (p : List Word) : (s.respond e n p).sys = s.sys := rfl
@[simp] theorem State.respond_firr (s : State) (e : Status) (n : Nat) (p : List Word) : (s.respond e n p).firr = s.firr := rfl
@[simp] theorem State.respond_firc (s : State) (e : Status) (n : Nat) (p : List Word) : (s.respond e n p).firc = s.firc := rfl
@[simp] theorem State.respond_hbr (s : State) (e : Status) (n : Nat) (p : List Word) : (s.respond e n p).hbr = s.hbr := rfl
@[simp] theorem State.respond_hbc (s : State) (e : Status) (n : Nat) (p : List Word) : (s.respond e n p).hbc = s.hbc := rfl
@[simp] theorem State.respond_hil (s : State) (e : Status) (n : Nat) (p : List Word) : (s.respond e n p).hil = s.hil := rfl
@[simp] theorem State.respond_dcr (s : State) (e : Status) (n : Nat) (p : List Word) : (s.respond e n p).dcr = s.dcr := rfl
@[simp] theorem State.respond_nco (s : State) (e : Status) (n : Nat) (p : List Word) : (s.respond e n p).nco = s.nco := rfl
@[simp] theorem State.respond_mix (s : State) (e : Status) (n : Nat) (p : List Word) : (s.respond e n p).mix = s.mix := rfl
@[simp] theorem State.respond_fmd (s : State) (e : Status) (n : Nat) (p : List Word) : (s.respond e n p).fmd = s.fmd := rfl
@[simp] theorem State.respond_dbi (s : State) (e : Status) (n : Nat) (p : List Word) : (s.respond e n p).dbi = s.dbi := rfl
@[simp] theorem State.respond_cop (s : State) (e : Status) (n : Nat) (p : List Word) : (s.respond e n p).cop = s.cop := rfl
@[simp] theorem State.respond_cmd (s : State) (e : Status) (n : Nat) (p : List Word) : (s.respond e n p).cmd = s.cmd := rfl
@[simp] theorem State.respond_rsp (s : State) (e : Status) (n : Nat) (p : List Word) : (s.respond e n p).rsp = s.rsp ++ [responseWord e n :: p] := rfl
@[simp] theorem State.respond_notif (s : State) (e : Status) (n : Nat) (p : List Word) : (s.respond e n p).notif = s.notif := rfl
@[simp] theorem State.respond_picks (s : State) (e : Status) (n : Nat) (p : List Word) : (s.respond e n p).picks = s.picks := rfl

@[simp] theorem State.answer_params (s : State) (n : Nat) (p : List Word) : (s.answer n p).params = s.params := rfl
@[simp] theorem State.answer_sys (s : State) (n : Nat) (p : List Word) : (s.answer n p).sys = s.sys := rfl
@[simp] theorem State.answer_firr (s : State) (n : Nat) (p : List Word) : (s.answer n p).firr = s.firr := rfl
@[simp] theorem State.answer_firc (s : State) (n : Nat) (p : List Word) : (s.answer n p).firc = s.firc := rfl
@[simp] theorem State.answer_hbr (s : State) (n : Nat) (p : List Word) : (s.answer n p).hbr = s.hbr := rfl
@[simp] theorem State.answer_hbc (s : State) (n : Nat) (p : List Word) : (s.answer n p).hbc = s.hbc := rfl
@[simp] theorem State.answer_hil (s : State) (n : Nat) (p : List Word) : (s.answer n p).hil = s.hil := rfl
@[simp] theorem State.answer_dcr (s : State) (n : Nat) (p : List Word) : (s.answer n p).dcr = s.dcr := rfl
@[simp] theorem State.answer_nco (s : State) (n : Nat) (p : List Word) : (s.answer n p).nco = s.nco := rfl
@[simp] theorem State.answer_mix (s : State) (n : Nat) (p : List Word) : (s.answer n p).mix = s.mix := rfl
@[simp] theorem State.answer_fmd (s : State) (n : Nat) (p : List Word) : (s.answer n p).fmd = s.fmd := rfl
@[simp] theorem State.answer_dbi (s : State) (n : Nat) (p : List Word) : (s.answer n p).dbi = s.dbi := rfl
@[simp] theorem State.answer_cop (s : State) (n : Nat) (p : List Word) : (s.answer n p).cop = s.cop := rfl
@[simp] theorem State.answer_cmd (s : State) (n : Nat) (p : List Word) : (s.answer n p).cmd = s.cmd := rfl
@[simp] theorem State.answer_rsp (s : State) (n : Nat) (p : List Word) : (s.answer n p).rsp = s.rsp ++ [responseWord .ok n :: p] := rfl
@[simp] theorem State.answer_notif (s : State) (n : Nat) (p : List Word) : (s.answer n p).notif = s.notif := rfl
@[simp] theorem State.answer_picks (s : State) (n : Nat) (p : List Word) : (s.answer n p).picks = s.picks := rfl

@[simp] theorem State.logError_params (s : State) (e : Status) (id : CmdId) : (s.logError e id).params = s.params := rfl
@[simp] theorem State.logError_sys (s : State) (e : Status) (id : CmdId) : (s.logError e id).sys = { s.sys with
      errflags := s.sys.errflags ||| BitVec.ofNat 32 (2 ^ e.code), lasterr := lasterrWord e id } := rfl
@[simp] theorem State.logError_firr (s : State) (e : Status) (id : CmdId) : (s.logError e id).firr = s.firr := rfl
@[simp] theorem State.logError_firc (s : State) (e : Status) (id : CmdId) : (s.logError e id).firc = s.firc := rfl
@[simp] theorem State.logError_hbr (s : State) (e : Status) (id : CmdId) : (s.logError e id).hbr = s.hbr := rfl
@[simp] theorem State.logError_hbc (s : State) (e : Status) (id : CmdId) : (s.logError e id).hbc = s.hbc := rfl
@[simp] theorem State.logError_hil (s : State) (e : Status) (id : CmdId) : (s.logError e id).hil = s.hil := rfl
@[simp] theorem State.logError_dcr (s : State) (e : Status) (id : CmdId) : (s.logError e id).dcr = s.dcr := rfl
@[simp] theorem State.logError_nco (s : State) (e : Status) (id : CmdId) : (s.logError e id).nco = s.nco := rfl
@[simp] theorem State.logError_mix (s : State) (e : Status) (id : CmdId) : (s.logError e id).mix = s.mix := rfl
@[simp] theorem State.logError_fmd (s : State) (e : Status) (id : CmdId) : (s.logError e id).fmd = s.fmd := rfl
@[simp] theorem State.logError_dbi (s : State) (e : Status) (id : CmdId) : (s.logError e id).dbi = s.dbi := rfl
@[simp] theorem State.logError_cop (s : State) (e : Status) (id : CmdId) : (s.logError e id).cop = s.cop := rfl
@[simp] theorem State.logError_cmd (s : State) (e : Status) (id : CmdId) : (s.logError e id).cmd = s.cmd := rfl
@[simp] theorem State.logError_rsp (s : State) (e : Status) (id : CmdId) : (s.logError e id).rsp = s.rsp := rfl
@[simp] theorem State.logError_notif (s : State) (e : Status) (id : CmdId) : (s.logError e id).notif = s.notif := rfl
@[simp] theorem State.logError_picks (s : State) (e : Status) (id : CmdId) : (s.logError e id).picks = s.picks := rfl

@[simp] theorem State.raise_params (s : State) (e : Status) (id : CmdId) : (s.raise e id).params = s.params := rfl
@[simp] theorem State.raise_sys (s : State) (e : Status) (id : CmdId) : (s.raise e id).sys = { s.sys with
      errflags := s.sys.errflags ||| BitVec.ofNat 32 (2 ^ e.code), lasterr := lasterrWord e id } := rfl
@[simp] theorem State.raise_firr (s : State) (e : Status) (id : CmdId) : (s.raise e id).firr = s.firr := rfl
@[simp] theorem State.raise_firc (s : State) (e : Status) (id : CmdId) : (s.raise e id).firc = s.firc := rfl
@[simp] theorem State.raise_hbr (s : State) (e : Status) (id : CmdId) : (s.raise e id).hbr = s.hbr := rfl
@[simp] theorem State.raise_hbc (s : State) (e : Status) (id : CmdId) : (s.raise e id).hbc = s.hbc := rfl
@[simp] theorem State.raise_hil (s : State) (e : Status) (id : CmdId) : (s.raise e id).hil = s.hil := rfl
@[simp] theorem State.raise_dcr (s : State) (e : Status) (id : CmdId) : (s.raise e id).dcr = s.dcr := rfl
@[simp] theorem State.raise_nco (s : State) (e : Status) (id : CmdId) : (s.raise e id).nco = s.nco := rfl
@[simp] theorem State.raise_mix (s : State) (e : Status) (id : CmdId) : (s.raise e id).mix = s.mix := rfl
@[simp] theorem State.raise_fmd (s : State) (e : Status) (id : CmdId) : (s.raise e id).fmd = s.fmd := rfl
@[simp] theorem State.raise_dbi (s : State) (e : Status) (id : CmdId) : (s.raise e id).dbi = s.dbi := rfl
@[simp] theorem State.raise_cop (s : State) (e : Status) (id : CmdId) : (s.raise e id).cop = s.cop := rfl
@[simp] theorem State.raise_cmd (s : State) (e : Status) (id : CmdId) : (s.raise e id).cmd = s.cmd := rfl
@[simp] theorem State.raise_rsp (s : State) (e : Status) (id : CmdId) : (s.raise e id).rsp = s.rsp ++ [[responseWord e 0]] := rfl
@[simp] theorem State.raise_notif (s : State) (e : Status) (id : CmdId) : (s.raise e id).notif = s.notif := rfl
@[simp] theorem State.raise_picks (s : State) (e : Status) (id : CmdId) : (s.raise e id).picks = s.picks := rfl

@[simp] theorem State.emit_params (s : State) (es : List Event) (c : Inst) : (s.emit es c).params = s.params := rfl
@[simp] theorem State.emit_sys (s : State) (es : List Event) (c : Inst) : (s.emit es c).sys = s.sys := rfl
@[simp] theorem State.emit_firr (s : State) (es : List Event) (c : Inst) : (s.emit es c).firr = s.firr := rfl
@[simp] theorem State.emit_firc (s : State) (es : List Event) (c : Inst) : (s.emit es c).firc = s.firc := rfl
@[simp] theorem State.emit_hbr (s : State) (es : List Event) (c : Inst) : (s.emit es c).hbr = s.hbr := rfl
@[simp] theorem State.emit_hbc (s : State) (es : List Event) (c : Inst) : (s.emit es c).hbc = s.hbc := rfl
@[simp] theorem State.emit_hil (s : State) (es : List Event) (c : Inst) : (s.emit es c).hil = s.hil := rfl
@[simp] theorem State.emit_dcr (s : State) (es : List Event) (c : Inst) : (s.emit es c).dcr = s.dcr := rfl
@[simp] theorem State.emit_nco (s : State) (es : List Event) (c : Inst) : (s.emit es c).nco = s.nco := rfl
@[simp] theorem State.emit_mix (s : State) (es : List Event) (c : Inst) : (s.emit es c).mix = s.mix := rfl
@[simp] theorem State.emit_fmd (s : State) (es : List Event) (c : Inst) : (s.emit es c).fmd = s.fmd := rfl
@[simp] theorem State.emit_dbi (s : State) (es : List Event) (c : Inst) : (s.emit es c).dbi = s.dbi := rfl
@[simp] theorem State.emit_cop (s : State) (es : List Event) (c : Inst) : (s.emit es c).cop = s.cop := rfl
@[simp] theorem State.emit_cmd (s : State) (es : List Event) (c : Inst) : (s.emit es c).cmd = s.cmd := rfl
@[simp] theorem State.emit_rsp (s : State) (es : List Event) (c : Inst) : (s.emit es c).rsp = s.rsp := rfl
@[simp] theorem State.emit_notif (s : State) (es : List Event) (c : Inst) : (s.emit es c).notif = s.notif ++ es.map fun e => eventWord e c := rfl
@[simp] theorem State.emit_picks (s : State) (es : List Event) (c : Inst) : (s.emit es c).picks = s.picks := rfl

@[simp] theorem State.resetUnits_params (s : State) : s.resetUnits.params = s.params := rfl
@[simp] theorem State.resetUnits_sys (s : State) : s.resetUnits.sys = Sys.reset := rfl
@[simp] theorem State.resetUnits_firr (s : State) : s.resetUnits.firr = Bank.fill Fir.reset := rfl
@[simp] theorem State.resetUnits_firc (s : State) : s.resetUnits.firc = Bank.fill Fir.reset := rfl
@[simp] theorem State.resetUnits_hbr (s : State) : s.resetUnits.hbr = Bank.fill Hb.reset := rfl
@[simp] theorem State.resetUnits_hbc (s : State) : s.resetUnits.hbc = Bank.fill Hb.reset := rfl
@[simp] theorem State.resetUnits_hil (s : State) : s.resetUnits.hil = Bank.fill Hil.reset := rfl
@[simp] theorem State.resetUnits_dcr (s : State) : s.resetUnits.dcr = Bank.fill Dcr.reset := rfl
@[simp] theorem State.resetUnits_nco (s : State) : s.resetUnits.nco = Bank.fill Nco.reset := rfl
@[simp] theorem State.resetUnits_mix (s : State) : s.resetUnits.mix = Bank.fill Mix.reset := rfl
@[simp] theorem State.resetUnits_fmd (s : State) : s.resetUnits.fmd = Bank.fill Fmd.reset := rfl
@[simp] theorem State.resetUnits_dbi (s : State) : s.resetUnits.dbi = Bank.fill Dbi.reset := rfl
@[simp] theorem State.resetUnits_cop (s : State) : s.resetUnits.cop = Bank.fill Cop.reset := rfl
@[simp] theorem State.resetUnits_cmd (s : State) : s.resetUnits.cmd = s.cmd := rfl
@[simp] theorem State.resetUnits_rsp (s : State) : s.resetUnits.rsp = s.rsp := rfl
@[simp] theorem State.resetUnits_notif (s : State) : s.resetUnits.notif = s.notif := rfl
@[simp] theorem State.resetUnits_picks (s : State) : s.resetUnits.picks = s.picks := rfl

@[simp] theorem State.send_params (s : State) (p : Packet) : (s.send p).params = s.params := rfl
@[simp] theorem State.send_sys (s : State) (p : Packet) : (s.send p).sys = s.sys := rfl
@[simp] theorem State.send_firr (s : State) (p : Packet) : (s.send p).firr = s.firr := rfl
@[simp] theorem State.send_firc (s : State) (p : Packet) : (s.send p).firc = s.firc := rfl
@[simp] theorem State.send_hbr (s : State) (p : Packet) : (s.send p).hbr = s.hbr := rfl
@[simp] theorem State.send_hbc (s : State) (p : Packet) : (s.send p).hbc = s.hbc := rfl
@[simp] theorem State.send_hil (s : State) (p : Packet) : (s.send p).hil = s.hil := rfl
@[simp] theorem State.send_dcr (s : State) (p : Packet) : (s.send p).dcr = s.dcr := rfl
@[simp] theorem State.send_nco (s : State) (p : Packet) : (s.send p).nco = s.nco := rfl
@[simp] theorem State.send_mix (s : State) (p : Packet) : (s.send p).mix = s.mix := rfl
@[simp] theorem State.send_fmd (s : State) (p : Packet) : (s.send p).fmd = s.fmd := rfl
@[simp] theorem State.send_dbi (s : State) (p : Packet) : (s.send p).dbi = s.dbi := rfl
@[simp] theorem State.send_cop (s : State) (p : Packet) : (s.send p).cop = s.cop := rfl
@[simp] theorem State.send_cmd (s : State) (p : Packet) : (s.send p).cmd = s.cmd ++ [p] := rfl
@[simp] theorem State.send_rsp (s : State) (p : Packet) : (s.send p).rsp = s.rsp := rfl
@[simp] theorem State.send_notif (s : State) (p : Packet) : (s.send p).notif = s.notif := rfl
@[simp] theorem State.send_picks (s : State) (p : Packet) : (s.send p).picks = s.picks := rfl

@[simp] theorem State.hardReset_params (s : State) : s.hardReset.params = s.params := rfl
@[simp] theorem State.hardReset_sys (s : State) : s.hardReset.sys = Sys.reset := rfl
@[simp] theorem State.hardReset_firr (s : State) : s.hardReset.firr = Bank.fill Fir.reset := rfl
@[simp] theorem State.hardReset_firc (s : State) : s.hardReset.firc = Bank.fill Fir.reset := rfl
@[simp] theorem State.hardReset_hbr (s : State) : s.hardReset.hbr = Bank.fill Hb.reset := rfl
@[simp] theorem State.hardReset_hbc (s : State) : s.hardReset.hbc = Bank.fill Hb.reset := rfl
@[simp] theorem State.hardReset_hil (s : State) : s.hardReset.hil = Bank.fill Hil.reset := rfl
@[simp] theorem State.hardReset_dcr (s : State) : s.hardReset.dcr = Bank.fill Dcr.reset := rfl
@[simp] theorem State.hardReset_nco (s : State) : s.hardReset.nco = Bank.fill Nco.reset := rfl
@[simp] theorem State.hardReset_mix (s : State) : s.hardReset.mix = Bank.fill Mix.reset := rfl
@[simp] theorem State.hardReset_fmd (s : State) : s.hardReset.fmd = Bank.fill Fmd.reset := rfl
@[simp] theorem State.hardReset_dbi (s : State) : s.hardReset.dbi = Bank.fill Dbi.reset := rfl
@[simp] theorem State.hardReset_cop (s : State) : s.hardReset.cop = Bank.fill Cop.reset := rfl
@[simp] theorem State.hardReset_cmd (s : State) : s.hardReset.cmd = [] := rfl
@[simp] theorem State.hardReset_rsp (s : State) : s.hardReset.rsp = s.rsp := rfl
@[simp] theorem State.hardReset_notif (s : State) : s.hardReset.notif = s.notif := rfl
@[simp] theorem State.hardReset_picks (s : State) : s.hardReset.picks = s.picks := rfl

end Sys2Proof.Machine
end

