-- ==== Sys2Proof/Laws/Ops.lean ====
section
/-! SUPPORT. Sys2Proof/Laws/Ops.lean: what the shared operations of a command can do: its checks, its two outcomes, the
words they write. -/

namespace Sys2Proof.Machine

@[simp] theorem firstError_nil : firstError [] = none := rfl

@[simp] theorem firstError_cons (bad : Bool) (e : Status) (cs : List (Bool × Status)) :
    firstError ((bad, e) :: cs) = if bad then some e else firstError cs := rfl

/-- No check fails exactly when every one of them is false. -/
theorem firstError_none_iff {cs : List (Bool × Status)} : firstError cs = none ↔ ∀ c ∈ cs, c.1 = false := by
  induction cs with
  | nil => simp
  | cons c cs ih =>
    obtain ⟨bad, e⟩ := c
    cases bad <;> simp [ih]

/-- The status answered is that of some failing check. -/
theorem firstError_some {cs : List (Bool × Status)} {e : Status} (h : firstError cs = some e) :
    ∃ c ∈ cs, c.1 = true ∧ c.2 = e := by
  induction cs with
  | nil => simp at h
  | cons c cs ih =>
    obtain ⟨bad, e'⟩ := c
    cases bad with
    | true => exact ⟨_, List.mem_cons_self, rfl, by simpa using h⟩
    | false =>
      obtain ⟨c, hc, h'⟩ := ih (by simpa using h)
      exact ⟨c, List.mem_cons_of_mem _ hc, h'⟩

/-- A command whose checks all pass has its effect. -/
theorem command_ok {s t : State} {id : CmdId} {cs : List (Bool × Status)} (h : firstError cs = none) :
    s.command id cs t = .next t := by simp [State.command, h]

/-- A command with a failing check raises. -/
theorem command_error {s t : State} {id : CmdId} {cs : List (Bool × Status)} {e : Status}
    (h : firstError cs = some e) : s.command id cs t = .next (s.raise e id) := by simp [State.command, h]

/-- Everything a command can do. -/
theorem command_cases {s t u : State} {id : CmdId} {cs : List (Bool × Status)} (h : s.command id cs t = .next u) :
    (firstError cs = none ∧ u = t) ∨ ∃ e, firstError cs = some e ∧ u = s.raise e id := by
  unfold State.command at h
  split at h
  · exact .inr ⟨_, ‹_›, by cases h; rfl⟩
  · exact .inl ⟨‹_›, by cases h; rfl⟩

/-- A command always answers a next state. -/
theorem command_next (s t : State) (id : CmdId) (cs : List (Bool × Status)) : ∃ u, s.command id cs t = .next u := by
  unfold State.command
  split <;> exact ⟨_, rfl⟩

/-- The shared checks of `PROC` pass exactly on a constructed unit, a block within `MAX_BLOCK` and a multiple of the
granularity. -/
theorem procChecks_pass {s : State} {constructed : Bool} {n gran : Nat} :
    firstError (procChecks s constructed n gran) = none ↔
      constructed = true ∧ n ≤ s.params.maxBlock ∧ n % gran = 0 := by
  rw [procChecks, firstError_none_iff]
  simp

@[simp] theorem instCheck_fst (s : State) (k : Kind) (i : Inst) : (instCheck s k i).1 = !s.hasInst k i := rfl

@[simp] theorem instCheck_snd (s : State) (k : Kind) (i : Inst) : (instCheck s k i).2 = .invalidArgument := rfl

theorem firstError_instCheck (s : State) (k : Kind) (i : Inst) (cs : List (Bool × Status)) :
    firstError (instCheck s k i :: cs) = if s.hasInst k i then firstError cs else some .invalidArgument := by
  unfold instCheck
  cases h : s.hasInst k i <;> simp

/-- Status codes fit the low byte of a response word. -/
theorem statusByte_responseWord (e : Status) (n : Nat) : statusByte (responseWord e n) = e.code := by
  have : e.code < 256 := by cases e <;> decide
  simp only [statusByte, responseWord, BitVec.toNat_ofNat]
  omega

/-- Codes name statuses. -/
theorem Status.code_injective {e f : Status} (h : e.code = f.code) : e = f := by
  cases e <;> cases f <;> first | rfl | (exact absurd h (by decide))

/-- A latched variant is never `Uncalibrated` (R147). -/
theorem latch_ne_uncalibrated (s : State) (k : Fin 9) : s.latch k ≠ .uncalibrated := by
  unfold State.latch
  split
  · decide
  · assumption

end Sys2Proof.Machine
end

