-- ==== Sys2Proof/Laws/Channel.lean ====
section
/-! SUPPORT. Sys2Proof/Laws/Channel.lean: what the shared operations of the channel output processor can do: reassembly
of a block cut in two, what reassembly leaves alone, the two branches of a submission, the dequeue, one drained
block. -/

namespace Sys2Proof.Machine

/-- Reassembly of two pieces of one block (R321). -/
theorem assemble_append (q : Cop) (ts : Stamp) (x y : List Cplx) :
    assemble q ts (x ++ y) =
      ((assemble (assemble q ts x).1 ts y).1, (assemble q ts x).2 ++ (assemble (assemble q ts x).1 ts y).2) := by
  induction x generalizing q with
  | nil => simp [assemble]
  | cons v vs ih =>
    simp only [List.cons_append, assemble]
    split <;> simp [ih]

/-- Reassembly changes `ASM` and `ASM_TS` only. -/
theorem assemble_frame (q : Cop) (ts : Stamp) (x : List Cplx) :
    (assemble q ts x).1 = { q with asm := (assemble q ts x).1.asm, asmTs := (assemble q ts x).1.asmTs } := by
  induction x generalizing q with
  | nil => rfl
  | cons v vs ih =>
    simp only [assemble]
    split
    · exact ih _
    · exact ih _

/-- Processing a block changes `ASM`, `ASM_TS` and `FPHASE` only. -/
theorem processBlock_frame (P : Params) (q : Cop) (b : Block) :
    (processBlock P q b).1 =
      { q with
        asm := (processBlock P q b).1.asm
        asmTs := (processBlock P q b).1.asmTs
        fphase := correctedPhase q b.data.length } := by
  rw [processBlock, assemble_frame]

/-- A submission is refused exactly at capacity (R306, R307). -/
theorem copSubmitStep_cases (s : State) (c : Inst) (b : Block) :
    ((s.cop.at c).queue.length = (s.cop.at c).capacity.toNat ∧
      copSubmitStep s c b =
        (if (s.cop.at c).ovf then s.putCop c { s.cop.at c with drops := satInc (s.cop.at c).drops, ovf := true }
          else (s.putCop c { s.cop.at c with drops := satInc (s.cop.at c).drops, ovf := true }).emit [.ovfEntered]
            c).answer 0 []) ∨
    ((s.cop.at c).queue.length ≠ (s.cop.at c).capacity.toNat ∧
      copSubmitStep s c b = (s.putCop c { s.cop.at c with queue := (s.cop.at c).queue ++ [b] }).answer 1 []) := by
  by_cases h : (s.cop.at c).queue.length = (s.cop.at c).capacity.toNat
  · exact .inl ⟨h, by simp [copSubmitStep, h]⟩
  · exact .inr ⟨h, by simp [copSubmitStep, h]⟩

/-- The dequeue clears the flag, with its event, or leaves it (R311). -/
theorem drainDequeue_cases (s : State) (c : Inst) (m : Nat) :
    (ovfClears (s.cop.at c) ((s.cop.at c).queue.drop m) = true ∧
      drainDequeue s c m = (s.putCop c { s.cop.at c with
        queue := (s.cop.at c).queue.drop m, inflight := some ((s.cop.at c).queue.take m), ovf := false }).emit
          [.ovfCleared] c) ∨
    (ovfClears (s.cop.at c) ((s.cop.at c).queue.drop m) = false ∧
      drainDequeue s c m = s.putCop c { s.cop.at c with
        queue := (s.cop.at c).queue.drop m, inflight := some ((s.cop.at c).queue.take m) }) := by
  cases h : ovfClears (s.cop.at c) ((s.cop.at c).queue.drop m)
  · exact .inr ⟨rfl, by simp [drainDequeue, h]⟩
  · exact .inl ⟨rfl, by simp [drainDequeue, h]⟩

/-- A drained block is skipped whole, counted and logged, or processed (R318). -/
theorem drainBlock_cases (c : Inst) (s : State) (out : List OutBlock) (b : Block) :
    (blockFault s.params b = true ∧
      drainBlock c (s, out) b =
        ((s.putCop c { s.cop.at c with blkerr := satInc (s.cop.at c).blkerr }).logError .blockProcessing ⟨11, 2, c⟩,
          out)) ∨
    (blockFault s.params b = false ∧
      drainBlock c (s, out) b =
        ((s.putCop c (processBlock s.params (s.cop.at c) b).1).emit
            ((processBlock s.params (s.cop.at c) b).2.map fun _ => .outputBlock) c,
          out ++ (processBlock s.params (s.cop.at c) b).2)) := by
  cases h : blockFault s.params b
  · exact .inr ⟨rfl, by simp [drainBlock, h]⟩
  · exact .inl ⟨rfl, by simp [drainBlock, h]⟩

/-- What a drained block leaves alone: everything but its channel, the error record and `NOTIF`. -/
theorem drainBlock_frame (c : Inst) (a : State × List OutBlock) (b : Block) :
    (drainBlock c a b).1 = { a.1 with
      cop := a.1.cop.put c ((drainBlock c a b).1.cop.at c)
      sys := (drainBlock c a b).1.sys
      notif := (drainBlock c a b).1.notif } := by
  obtain ⟨s, out⟩ := a
  rcases drainBlock_cases c s out b with ⟨-, h⟩ | ⟨-, h⟩ <;> rw [h] <;> simp [State.logError, State.putCop,
    State.putSys, State.emit]

/-- The same of the fold over a drain's blocks. -/
theorem drainBlocks_frame (c : Inst) (a : State × List OutBlock) (bs : List Block) :
    (bs.foldl (drainBlock c) a).1 = { a.1 with
      cop := a.1.cop.put c ((bs.foldl (drainBlock c) a).1.cop.at c)
      sys := (bs.foldl (drainBlock c) a).1.sys
      notif := (bs.foldl (drainBlock c) a).1.notif } := by
  induction bs generalizing a with
  | nil => simp [Bank.put_at]
  | cons b bs ih =>
    rw [List.foldl_cons, ih (drainBlock c a b), drainBlock_frame c a b]
    simp [Bank.put_put]

/-- A number of output blocks that 32 bits hold is the count word. -/
theorem countWord_of_lt {n : Nat} (h : n < 2 ^ 32) : countWord n = BitVec.ofNat 32 n := if_pos h

end Sys2Proof.Machine
end

