-- ==== Sys2Proof/Laws/Decode.lean ====
section
/-! SUPPORT. Sys2Proof/Laws/Decode.lean: the fields of a header put together from fields, interleaving, and the one
shared operation of the decoder. -/

namespace Sys2Proof

/-! Headers. -/

theorem mkHeader_toNat (op : BitVec 6) (i : Inst) (imm : BitVec 22) :
    (mkHeader op i imm).toNat = op.toNat * 2 ^ 26 + i.toNat * 2 ^ 22 + imm.toNat := by
  simp only [mkHeader, BitVec.toNat_append]
  have h1 : i.toNat < 2 ^ 4 := i.isLt
  have h2 : imm.toNat < 2 ^ 22 := imm.isLt
  rw [← Nat.shiftLeft_add_eq_or_of_lt h1, ← Nat.shiftLeft_add_eq_or_of_lt h2]
  simp only [Nat.shiftLeft_eq]
  ring

@[simp] theorem opcodeOf_mkHeader (op : BitVec 6) (i : Inst) (imm : BitVec 22) : opcodeOf (mkHeader op i imm) = op := by
  apply BitVec.eq_of_toNat_eq
  have h1 := i.isLt
  have h2 := imm.isLt
  have h3 := op.isLt
  simp only [opcodeOf, BitVec.extractLsb'_toNat, mkHeader_toNat, Nat.shiftRight_eq_div_pow]
  omega

@[simp] theorem instOf_mkHeader (op : BitVec 6) (i : Inst) (imm : BitVec 22) : instOf (mkHeader op i imm) = i := by
  apply BitVec.eq_of_toNat_eq
  have h1 := i.isLt
  have h2 := imm.isLt
  have h3 := op.isLt
  simp only [instOf, BitVec.extractLsb'_toNat, mkHeader_toNat, Nat.shiftRight_eq_div_pow]
  omega

@[simp] theorem immOf_mkHeader (op : BitVec 6) (i : Inst) (imm : BitVec 22) : immOf (mkHeader op i imm) = imm := by
  apply BitVec.eq_of_toNat_eq
  have h1 := i.isLt
  have h2 := imm.isLt
  have h3 := op.isLt
  simp only [immOf, BitVec.extractLsb'_toNat, mkHeader_toNat, Nat.shiftRight_eq_div_pow]
  omega

/-- The sub-fields of a header are those of its immediate. -/
theorem lenOf_eq (h : Word) : lenOf h = (immOf h).extractLsb' 0 12 := by
  apply BitVec.eq_of_toNat_eq
  simp only [lenOf, immOf, BitVec.extractLsb'_toNat, Nat.shiftRight_eq_div_pow]
  omega

theorem decimOf_eq (h : Word) : decimOf h = (immOf h).extractLsb' 12 10 := by
  apply BitVec.eq_of_toNat_eq
  simp only [decimOf, immOf, BitVec.extractLsb'_toNat, Nat.shiftRight_eq_div_pow]
  omega

theorem rkindOf_eq (h : Word) : rkindOf h = (immOf h).extractLsb' 8 4 := by
  apply BitVec.eq_of_toNat_eq
  simp only [rkindOf, immOf, BitVec.extractLsb'_toNat, Nat.shiftRight_eq_div_pow]
  omega

theorem regnoOf_eq (h : Word) : regnoOf h = (immOf h).extractLsb' 0 8 := by
  apply BitVec.eq_of_toNat_eq
  simp only [regnoOf, immOf, BitVec.extractLsb'_toNat, Nat.shiftRight_eq_div_pow]
  omega

theorem immTaps_toNat (d : BitVec 10) (l : Nat) : (immTaps d l).toNat = d.toNat * 2 ^ 12 + l % 2 ^ 12 := by
  simp only [immTaps, BitVec.toNat_append, BitVec.toNat_ofNat]
  rw [← Nat.shiftLeft_add_eq_or_of_lt (Nat.mod_lt _ (by norm_num)), Nat.shiftLeft_eq]

theorem immReg_toNat (rk : BitVec 4) (rn : BitVec 8) : (immReg rk rn).toNat = rk.toNat * 2 ^ 8 + rn.toNat := by
  simp only [immReg, BitVec.toNat_append, BitVec.toNat_ofNat]
  have h1 : rk.toNat < 2 ^ 4 := rk.isLt
  have h2 : rn.toNat < 2 ^ 8 := rn.isLt
  rw [← Nat.shiftLeft_add_eq_or_of_lt h1, ← Nat.shiftLeft_add_eq_or_of_lt h2]
  simp [Nat.shiftLeft_eq]

@[simp] theorem lenOf_taps (op : BitVec 6) (i : Inst) (d : BitVec 10) (l : Nat) :
    (lenOf (mkHeader op i (immTaps d l))).toNat = l % 2 ^ 12 := by
  have := d.isLt
  rw [lenOf_eq, immOf_mkHeader]
  simp only [BitVec.extractLsb'_toNat, immTaps_toNat, Nat.shiftRight_eq_div_pow]
  omega

@[simp] theorem decimOf_taps (op : BitVec 6) (i : Inst) (d : BitVec 10) (l : Nat) :
    decimOf (mkHeader op i (immTaps d l)) = d := by
  apply BitVec.eq_of_toNat_eq
  have := d.isLt
  rw [decimOf_eq, immOf_mkHeader]
  simp only [BitVec.extractLsb'_toNat, immTaps_toNat, Nat.shiftRight_eq_div_pow]
  omega

@[simp] theorem rkindOf_reg (op : BitVec 6) (i : Inst) (rk : BitVec 4) (rn : BitVec 8) :
    rkindOf (mkHeader op i (immReg rk rn)) = rk := by
  apply BitVec.eq_of_toNat_eq
  have := rk.isLt
  have := rn.isLt
  rw [rkindOf_eq, immOf_mkHeader]
  simp only [BitVec.extractLsb'_toNat, immReg_toNat, Nat.shiftRight_eq_div_pow]
  omega

@[simp] theorem regnoOf_reg (op : BitVec 6) (i : Inst) (rk : BitVec 4) (rn : BitVec 8) :
    regnoOf (mkHeader op i (immReg rk rn)) = rn := by
  apply BitVec.eq_of_toNat_eq
  have := rk.isLt
  have := rn.isLt
  rw [regnoOf_eq, immOf_mkHeader]
  simp only [BitVec.extractLsb'_toNat, immReg_toNat, Nat.shiftRight_eq_div_pow]
  omega

@[simp] theorem decimOf_reg (op : BitVec 6) (i : Inst) (rk : BitVec 4) (rn : BitVec 8) :
    decimOf (mkHeader op i (immReg rk rn)) = 0#10 := by
  apply BitVec.eq_of_toNat_eq
  have := rk.isLt
  have := rn.isLt
  rw [decimOf_eq, immOf_mkHeader]
  simp only [BitVec.extractLsb'_toNat, immReg_toNat, Nat.shiftRight_eq_div_pow, BitVec.toNat_ofNat]
  omega

@[simp] theorem immLen_toNat (n : Nat) : (immLen n).toNat = n % 2 ^ 22 := by simp [immLen]

/-- A header is put together from its fields. -/
theorem mkHeader_fields (h : Word) : mkHeader (opcodeOf h) (instOf h) (immOf h) = h := by
  apply BitVec.eq_of_toNat_eq
  have := h.isLt
  rw [mkHeader_toNat]
  simp only [opcodeOf, instOf, immOf, BitVec.extractLsb'_toNat, Nat.shiftRight_eq_div_pow]
  omega

theorem immTaps_fields (h : Word) : immTaps (decimOf h) (lenOf h).toNat = immOf h := by
  apply BitVec.eq_of_toNat_eq
  rw [immTaps_toNat]
  simp only [decimOf, lenOf, immOf, BitVec.extractLsb'_toNat, Nat.shiftRight_eq_div_pow]
  omega

theorem immReg_fields (h : Word) (hd : decimOf h = 0#10) : immReg (rkindOf h) (regnoOf h) = immOf h := by
  apply BitVec.eq_of_toNat_eq
  have hd' := congrArg BitVec.toNat hd
  rw [immReg_toNat]
  simp only [decimOf, rkindOf, regnoOf, immOf, BitVec.extractLsb'_toNat, Nat.shiftRight_eq_div_pow,
    BitVec.toNat_ofNat] at *
  omega

theorem immLen_fields (h : Word) : immLen (immOf h).toNat = immOf h := by
  apply BitVec.eq_of_toNat_eq
  have := (immOf h).isLt
  rw [immLen_toNat]
  omega

/-- `KIND` and `FUNC` are the two parts of the opcode. -/
theorem kindOf_toNat (h : Word) : (kindOf h).toNat = (opcodeOf h).toNat / 4 := by
  simp only [kindOf, opcodeOf, BitVec.extractLsb'_toNat, Nat.shiftRight_eq_div_pow]
  have := h.isLt
  omega

theorem funcOf_toNat (h : Word) : (funcOf h).toNat = (opcodeOf h).toNat % 4 := by
  simp only [funcOf, opcodeOf, BitVec.extractLsb'_toNat, Nat.shiftRight_eq_div_pow]
  have := h.isLt
  omega

/-! Interleaving. -/

@[simp] theorem pairs_interleave {α : Type} (x : List (α × α)) : pairs (interleave x) = x := by
  induction x with
  | nil => rfl
  | cons a t ih => obtain ⟨a, b⟩ := a; simp [interleave, pairs, ih]

@[simp] theorem length_interleave {α : Type} (x : List (α × α)) : (interleave x).length = 2 * x.length := by
  induction x with
  | nil => rfl
  | cons a t ih => obtain ⟨a, b⟩ := a; simp [interleave, ih]; omega

theorem interleave_pairs {α : Type} : (x : List α) → x.length % 2 = 0 → interleave (pairs x) = x
  | [], _ => rfl
  | [a], h => by simp at h
  | a :: b :: t, h => by
    have : t.length % 2 = 0 := by simp at h; omega
    simp [pairs, interleave, interleave_pairs t this]

theorem length_pairs {α : Type} : (x : List α) → (pairs x).length = x.length / 2
  | [] => by simp [pairs]
  | [a] => by simp [pairs]
  | a :: b :: t => by simp [pairs, length_pairs t]; omega

@[simp] theorem interleave_append {α : Type} (x y : List (α × α)) :
    interleave (x ++ y) = interleave x ++ interleave y := by
  induction x with
  | nil => rfl
  | cons a t ih => obtain ⟨a, b⟩ := a; simp [interleave, ih]

/-! The decoder's shared operation. -/

@[simp] theorem sized_ok {p : Packet} {legal : Bool} {n : Nat} {i j : Instr} :
    p.sized legal n i = .ok j ↔ legal = true ∧ p.body.length = n ∧ i = j := by
  unfold Packet.sized
  split
  · split <;> simp_all
  · simp_all

theorem sized_cases (p : Packet) (legal : Bool) (n : Nat) (i : Instr) :
    (legal = true ∧ p.body.length = n ∧ p.sized legal n i = .ok i) ∨
    (legal = true ∧ p.body.length ≠ n ∧ p.sized legal n i = .error (.wrongCount p.header)) ∨
    (legal = false ∧ p.sized legal n i = .error (.illegalHeader p.header)) := by
  unfold Packet.sized
  cases legal <;> by_cases h : p.body.length = n <;> simp [h]

end Sys2Proof
end

