-- ==== Sys2Proof/Laws/Filters.lean ====
section
/-! SUPPORT. Sys2Proof/Laws/Filters.lean: the sample functions: the lengths of what they give, their elements, and what
they make of a block cut in two. -/

namespace Sys2Proof.Machine

/-! Lengths. -/

@[simp] theorem length_railI (x : List Cplx) : (railI x).length = x.length := by simp [railI]

@[simp] theorem length_railQ (x : List Cplx) : (railQ x).length = x.length := by simp [railQ]

@[simp] theorem length_workBuf {α : Type} (r x : List α) : (workBuf r x).length = r.length + x.length := by
  simp [workBuf]

/-- The residual keeps its length. -/
@[simp] theorem length_nextResid {α : Type} (r x : List α) : (nextResid r x).length = r.length := by
  simp [nextResid]

@[simp] theorem length_firRail (num : Numerics) (v : Variant) (c : List F32) (d : Nat) (r x : List F32) :
    (firRail num v c d r x).length = x.length / d := by simp [firRail]

@[simp] theorem length_firRails (num : Numerics) (v : Variant) (c : List F32) (d : Nat) (r x : List Cplx) :
    (firRails num v c d r x).length = x.length / d := by simp [firRails, joinRails]

@[simp] theorem length_hbRail (num : Numerics) (v : Variant) (c r x : List F32) :
    (hbRail num v c r x).length = x.length / 2 := by simp [hbRail]

@[simp] theorem length_hbRails (num : Numerics) (v : Variant) (c : List F32) (r x : List Cplx) :
    (hbRails num v c r x).length = x.length / 2 := by simp [hbRails, joinRails]

@[simp] theorem length_signPairs (odd : Bool) (r : List Cplx) : (signPairs odd r).length = r.length := by
  induction r generalizing odd with
  | nil => rfl
  | cons a t ih => obtain ⟨a, b⟩ := a; simp [signPairs, ih]

@[simp] theorem length_hilRails (num : Numerics) (v : Variant) (c ri rq : List F32) (ab : List Cplx) :
    (hilRails num v c ri rq ab).length = ab.length := by simp [hilRails]

@[simp] theorem length_dcrRun (alpha avg : F32) (x : List F32) : (dcrRun alpha avg x).1.length = x.length := by
  induction x generalizing avg with
  | nil => rfl
  | cons a t ih => simp [dcrRun, ih]

@[simp] theorem length_ncoRun (P : Params) (phase inc : Word) (n : Nat) : (ncoRun P phase inc n).length = n := by
  simp [ncoRun, phases]

@[simp] theorem length_mixRun (P : Params) (phase inc : Word) (x : List Cplx) :
    (mixRun P phase inc x).length = x.length := by simp [mixRun]

@[simp] theorem length_fmdRun (P : Params) (prev : Cplx) (x : List Cplx) : (fmdRun P prev x).length = x.length := by
  induction x generalizing prev with
  | nil => rfl
  | cons a t ih => simp [fmdRun, ih]

/-! Elements. -/

/-- Pair p takes the odd signs exactly when the first parity and p together are odd (R221, R226). -/
theorem getElem?_signPairs (odd : Bool) (r : List Cplx) (p : Nat) (q : Cplx) (h : r[p]? = some q) :
    (signPairs odd r)[p]? = some (if (odd.toNat + p) % 2 = 1 then (fneg q.1, q.2) else (q.1, fneg q.2)) := by
  induction r generalizing odd p with
  | nil => simp at h
  | cons a t ih =>
    obtain ⟨a, b⟩ := a
    cases p with
    | zero =>
      obtain rfl : (a, b) = q := by simpa using h
      cases odd <;> simp [signPairs]
    | succ p =>
      rw [show signPairs odd ((a, b) :: t) = _ :: signPairs (!odd) t from rfl, List.getElem?_cons_succ,
        ih (!odd) p (by simpa using h)]
      have : ((!odd).toNat + p) % 2 = (odd.toNat + (p + 1)) % 2 := by cases odd <;> simp <;> omega
      rw [this]

theorem getElem?_ncoRun (P : Params) (phase inc : Word) (n m : Nat) (h : m < n) :
    (ncoRun P phase inc n)[m]? = some (ncoAt P (phase + BitVec.ofNat 32 m * inc)) := by
  simp [ncoRun, phases, h]

theorem getElem?_mixRun (P : Params) (phase inc : Word) (x : List Cplx) (m : Nat) (v : Cplx) (h : x[m]? = some v) :
    (mixRun P phase inc x)[m]? = some (cmix v (ncoAt P (phase + BitVec.ofNat 32 m * inc))) := by
  have hm : m < x.length := (List.getElem?_eq_some_iff.mp h).1
  simp [mixRun, List.getElem?_zipWith, h, getElem?_ncoRun P phase inc _ m hm]

/-! A block cut in two. -/

/-- The residual after two blocks is the residual after the joined one (R79). -/
theorem nextResid_append {α : Type} (r x y : List α) : nextResid (nextResid r x) y = nextResid r (x ++ y) := by
  have h : x.length ≤ (r ++ x).length := by simp
  simp only [nextResid, workBuf, List.length_append, ← List.append_assoc]
  rw [← List.drop_append_of_le_length h, List.drop_drop]

theorem signPairs_append (odd : Bool) (x y : List Cplx) :
    signPairs odd (x ++ y) = signPairs odd x ++ signPairs (nextPar odd x.length) y := by
  induction x generalizing odd with
  | nil => cases odd <;> simp [signPairs, nextPar]
  | cons a t ih =>
    obtain ⟨a, b⟩ := a
    have : nextPar (!odd) t.length = nextPar odd (t.length + 1) := by
      rcases Nat.mod_two_eq_zero_or_one t.length with h | h <;> cases odd <;> simp [nextPar, h] <;> omega
    simp [signPairs, ih, this]

/-- The parity after two blocks (R226). -/
theorem nextPar_add (par : Bool) (m n : Nat) : nextPar (nextPar par m) n = nextPar par (m + n) := by
  rcases Nat.mod_two_eq_zero_or_one m with h | h <;> rcases Nat.mod_two_eq_zero_or_one n with k | k <;>
    cases par <;> simp [nextPar, Nat.add_mod, h, k]

theorem dcrRun_append (alpha avg : F32) (x y : List F32) :
    dcrRun alpha avg (x ++ y) =
      ((dcrRun alpha avg x).1 ++ (dcrRun alpha (dcrRun alpha avg x).2 y).1,
        (dcrRun alpha (dcrRun alpha avg x).2 y).2) := by
  induction x generalizing avg with
  | nil => rfl
  | cons a t ih => simp [dcrRun, ih]

theorem nextPhase_add (phase inc : Word) (m n : Nat) :
    nextPhase (nextPhase phase inc m) inc n = nextPhase phase inc (m + n) := by
  simp only [nextPhase, BitVec.ofNat_add]
  ring

theorem ncoRun_add (P : Params) (phase inc : Word) (m n : Nat) :
    ncoRun P phase inc (m + n) = ncoRun P phase inc m ++ ncoRun P (nextPhase phase inc m) inc n := by
  simp only [ncoRun, phases, List.range_add, List.map_append, List.map_map, List.append_cancel_left_eq]
  apply List.map_congr_left
  intro k _
  simp only [Function.comp_apply, nextPhase, BitVec.ofNat_add]
  congr 1
  ring

theorem mixRun_append (P : Params) (phase inc : Word) (x y : List Cplx) :
    mixRun P phase inc (x ++ y) = mixRun P phase inc x ++ mixRun P (nextPhase phase inc x.length) inc y := by
  simp only [mixRun, List.length_append, ncoRun_add]
  rw [List.zipWith_append (by simp)]

theorem fmdLast_append (prev : Cplx) (x y : List Cplx) : fmdLast (fmdLast prev x) y = fmdLast prev (x ++ y) := by
  cases y with
  | nil => simp [fmdLast]
  | cons b t => simp [fmdLast, List.getLast?_append]

theorem fmdRun_append (P : Params) (prev : Cplx) (x y : List Cplx) :
    fmdRun P prev (x ++ y) = fmdRun P prev x ++ fmdRun P (fmdLast prev x) y := by
  induction x generalizing prev with
  | nil => rfl
  | cons a t ih =>
    have : fmdLast prev (a :: t) = fmdLast a t := by cases t <;> simp [fmdLast, List.getLast?_eq_some_getLast]
    simp [fmdRun, ih, this]

end Sys2Proof.Machine
end

