-- ==== Sys2Proof/Laws/Float.lean ====
section
/-! SUPPORT. Sys2Proof/Laws/Float.lean: the parts of the arithmetic: powers of two, the fields of a bit pattern put
together from a sign and the rest, the values of bit patterns, quiet NaNs, trees of additions. -/

namespace Sys2Proof.Machine

/-- The three factors are one power. -/
theorem pow2_eq (d : Nat) : pow2 d = 2 ^ d := by
  rw [pow2, ← pow_add, ← pow_add]
  congr 1
  omega

/-- Rounding to nearest: no integer is nearer to m / 2^d than the result. -/
theorem roundEven_nearest (m d k : Nat) :
    ((m : Int) - (roundEven m d * 2 ^ d : Nat)).natAbs ≤ ((m : Int) - (k * 2 ^ d : Nat)).natAbs := by
  have hp : 0 < 2 ^ d := by positivity
  have hm := Nat.div_add_mod m (2 ^ d)
  have hr := Nat.mod_lt m hp
  simp only [roundEven, pow2_eq]
  generalize hq : m / 2 ^ d = q at *
  generalize hrr : m % 2 ^ d = r at *
  generalize 2 ^ d = p at *
  have hk : k ≤ q ∨ q + 1 ≤ k := by omega
  have e : q * p = p * q := Nat.mul_comm _ _
  have e1 : (q + 1) * p = p * q + p := by ring
  split <;> rename_i hc <;> rcases hk with hk | hk
  · have := Nat.mul_le_mul_right p hk
    omega
  · have := Nat.mul_le_mul_right p hk
    omega
  · have := Nat.mul_le_mul_right p hk
    omega
  · have := Nat.mul_le_mul_right p hk
    omega

/-! A sign and bits [30:0]. -/

theorem signed_toNat (neg : Bool) (mag : Nat) (h : mag < 2 ^ 31) :
    (signed neg mag).toNat = (if neg then 2 ^ 31 else 0) + mag := by
  rw [signed, BitVec.toNat_ofNat]
  cases neg <;> simp <;> omega

theorem signBit_signed (neg : Bool) (mag : Nat) (h : mag < 2 ^ 31) : signBit (signed neg mag) = neg := by
  rw [signBit, signed_toNat neg mag h]
  cases neg <;> simp; omega

theorem fracField_signed (neg : Bool) (mag : Nat) (h : mag < 2 ^ 31) : fracField (signed neg mag) = mag % 2 ^ 23 := by
  rw [fracField, signed_toNat neg mag h]
  cases neg <;> simp; omega

theorem expField_signed (neg : Bool) (mag : Nat) (h : mag < 2 ^ 31) : expField (signed neg mag) = mag / 2 ^ 23 := by
  rw [expField, signed_toNat neg mag h]
  cases neg <;> simp <;> omega

/-- `quietNaN` makes a quiet NaN, whatever the free bits. -/
theorem quietNaN_isNaN (b : BitVec 23) : isNaN (quietNaN b) = true ∧ 2 ^ 22 ≤ fracField (quietNaN b) := by
  have h : 0x7FC00000 + b.toNat % 2 ^ 22 < 2 ^ 31 := by omega
  rw [isNaN, quietNaN, expField_signed _ _ h, fracField_signed _ _ h]
  constructor
  · simp only [ne_eq, Bool.and_eq_true, decide_eq_true_eq]
    omega
  · omega

/-! Values. -/

theorem expField_lt (a : F32) : expField a < 256 := Nat.mod_lt _ (by norm_num)

/-- A bit pattern is a NaN, an infinity, or finite. -/
theorem unpack_cases (a : F32) :
    (isNaN a = true ∧ unpack a = .nan) ∨
    (isNaN a = false ∧ isFinite a = false ∧ unpack a = .inf (signBit a)) ∨
    (isNaN a = false ∧ isFinite a = true ∧ ∃ m : Nat, unpack a = .fin (signBit a) m ∧
      units a = if signBit a then -(m : Int) else m) := by
  by_cases h : expField a = 255
  · by_cases f : fracField a = 0
    · exact .inr (.inl ⟨by simp [isNaN, f], by simp [isFinite, h], by simp [unpack, h, f]⟩)
    · exact .inl ⟨by simp [isNaN, h, f], by simp [unpack, h, f]⟩
  · refine .inr (.inr ⟨by simp [isNaN, h], by simp [isFinite, h], ?_⟩)
    by_cases z : expField a = 0
    · exact ⟨fracField a, by simp [unpack, z], by simp [units, unpack, z]⟩
    · exact ⟨(2 ^ 23 + fracField a) * pow2 (expField a - 1), by simp [unpack, h, z], by simp [units, unpack, h, z]⟩

/-- `fneg` twice. -/
@[simp] theorem fneg_fneg (a : F32) : fneg (fneg a) = a := by
  rw [fneg, fneg, BitVec.xor_assoc]
  simp

/-! Sums. -/

@[simp] theorem ssum_singleton (t : F32) : ssum [t] = t := rfl

/-- One more term is added last. -/
theorem ssum_concat (t u : F32) (ts : List F32) : ssum (t :: ts ++ [u]) = fadd (ssum (t :: ts)) u := by
  simp [ssum, List.foldl_append]

/-- The value of a left-to-right tree over leaves is the left-to-right sum. -/
theorem treeEval_foldl (ts : List F32) (t : SumTree) (us : List SumTree) :
    treeEval ts (us.foldl SumTree.node t) = (us.map (treeEval ts)).foldl fadd (treeEval ts t) := by
  induction us generalizing t with
  | nil => rfl
  | cons u us ih => simp [ih, treeEval]

theorem treeLeaves_foldl (t : SumTree) (us : List SumTree) :
    treeLeaves (us.foldl SumTree.node t) = treeLeaves t ++ us.flatMap treeLeaves := by
  induction us generalizing t with
  | nil => simp
  | cons u us ih => simp [ih, treeLeaves]

end Sys2Proof.Machine
end

