-- ==== Sys2Proof/Laws/Inv.lean ====
section
/-! SUPPORT. Sys2Proof/Laws/Inv.lean: the invariant under the named operations on the state: a legal instance put into a
slot that exists, a response, an error record, notifications, packets sent. -/

namespace Sys2Proof.Machine

/-- The invariant reads neither the ports nor the arbiter's counter. -/
theorem State.Inv.ports {s : State} (h : s.Inv) (cmd : List Packet) (rsp : List (List Word)) (notif : List Word)
    (picks : Nat) : ({ s with cmd := cmd, rsp := rsp, notif := notif, picks := picks } : State).Inv :=
  ⟨h.params, h.sys, h.firr, h.firc, h.hbr, h.hbc, h.hil, h.dcr, h.nco, h.mix, h.fmd, h.dbi, h.cop, h.pastEnd⟩

/-- An answer keeps the invariant. -/
theorem State.Inv.respond {s : State} (h : s.Inv) (e : Status) (info : Nat) (ws : List Word) :
    (s.respond e info ws).Inv := h.ports s.cmd _ s.notif s.picks

/-- Events keep the invariant. -/
theorem State.Inv.emit {s : State} (h : s.Inv) (es : List Event) (c : Inst) : (s.emit es c).Inv :=
  h.ports s.cmd s.rsp _ s.picks

/-- A packet sent keeps the invariant. -/
theorem State.Inv.send {s : State} (h : s.Inv) (p : Packet) : (s.send p).Inv := h.ports _ s.rsp s.notif s.picks

/-- Legal `SYS` registers keep the invariant. -/
theorem State.Inv.putSys {s : State} (h : s.Inv) {u : Sys} (hu : SysOk s.params u) : (s.putSys u).Inv :=
  ⟨h.params, hu, h.firr, h.firc, h.hbr, h.hbc, h.hil, h.dcr, h.nco, h.mix, h.fmd, h.dbi, h.cop, h.pastEnd⟩

/-- A word with nothing outside bits 1 to 7 keeps that with such a bit set. -/
theorem errflags_or (w : Word) (e : Status) (h : w &&& ~~~0xFE#32 = 0#32) (he : e ≠ .ok) :
    (w ||| BitVec.ofNat 32 (2 ^ e.code)) &&& ~~~0xFE#32 = 0#32 := by
  rw [BitVec.and_comm, BitVec.and_or_distrib_left, BitVec.and_comm _ w, h]
  cases e <;> first | exact absurd rfl he | decide

/-- `LASTERR` has nothing in bits [31:18]. -/
theorem lasterrWord_lt (e : Status) (id : CmdId) : (lasterrWord e id).toNat < 2 ^ 18 := by
  have h1 := id.kind.isLt
  have h2 := id.func.isLt
  have h3 := id.inst.isLt
  have h4 : e.code < 8 := by cases e <;> decide
  rw [lasterrWord, BitVec.toNat_ofNat]
  omega

/-- The error record of a status other than `OK` keeps the invariant. -/
theorem State.Inv.logError {s : State} (h : s.Inv) {e : Status} (he : e ≠ .ok) (id : CmdId) : (s.logError e id).Inv :=
  h.putSys ⟨errflags_or _ e h.sys.1 he, lasterrWord_lt e id, h.sys.2.2⟩

/-- A raise keeps the invariant. -/
theorem State.Inv.raise {s : State} (h : s.Inv) {e : Status} (he : e ≠ .ok) (id : CmdId) : (s.raise e id).Inv :=
  (h.logError he id).respond e 0 []

/-- A property of every slot survives a slot replaced by one that has it. -/
theorem Bank.forall_put {α : Type} {b : Bank α} {i : Inst} {u : α} {Q : Inst → α → Prop} (h : ∀ j, Q j (b.at j))
    (hu : Q i u) (j : Inst) : Q j ((b.put i u).at j) := by
  rw [Bank.at_put]
  split
  · rename_i e
    exact e ▸ hu
  · exact h j

/-- A legal instance put into an existing slot of `FIRR` keeps the invariant. -/
theorem State.Inv.putFirr {s : State} (h : s.Inv) {i : Inst} {u : Fir F32} (hi : s.hasInst .firr i = true)
    (hu : FirOk s.params u) : (s.putFirr i u).Inv where
  params := h.params
  sys := h.sys
  firr j := Bank.forall_put (Q := fun _ u => FirOk s.params u) h.firr hu j
  firc := h.firc
  hbr := h.hbr
  hbc := h.hbc
  hil := h.hil
  dcr := h.dcr
  nco := h.nco
  mix := h.mix
  fmd := h.fmd
  dbi := h.dbi
  cop := h.cop
  pastEnd j := by
    have p := h.pastEnd j
    have q : s.hasInst .firr j = false → (s.firr.put i u).at j = Fir.reset :=
      Bank.forall_put (b := s.firr) (Q := fun j v => s.hasInst .firr j = false → v = Fir.reset)
        (fun j => (h.pastEnd j).1) (fun hj => absurd (hi.symm.trans hj) (by decide)) j
    exact ⟨q, p.2.1, p.2.2.1, p.2.2.2.1, p.2.2.2.2.1, p.2.2.2.2.2.1, p.2.2.2.2.2.2.1, p.2.2.2.2.2.2.2.1, p.2.2.2.2.2.2.2.2.1, p.2.2.2.2.2.2.2.2.2.1, p.2.2.2.2.2.2.2.2.2.2⟩

/-- A legal instance put into an existing slot of `FIRC` keeps the invariant. -/
theorem State.Inv.putFirc {s : State} (h : s.Inv) {i : Inst} {u : Fir Cplx} (hi : s.hasInst .firc i = true)
    (hu : FirOk s.params u) : (s.putFirc i u).Inv where
  params := h.params
  sys := h.sys
  firr := h.firr
  firc j := Bank.forall_put (Q := fun _ u => FirOk s.params u) h.firc hu j
  hbr := h.hbr
  hbc := h.hbc
  hil := h.hil
  dcr := h.dcr
  nco := h.nco
  mix := h.mix
  fmd := h.fmd
  dbi := h.dbi
  cop := h.cop
  pastEnd j := by
    have p := h.pastEnd j
    have q : s.hasInst .firc j = false → (s.firc.put i u).at j = Fir.reset :=
      Bank.forall_put (b := s.firc) (Q := fun j v => s.hasInst .firc j = false → v = Fir.reset)
        (fun j => (h.pastEnd j).2.1) (fun hj => absurd (hi.symm.trans hj) (by decide)) j
    exact ⟨p.1, q, p.2.2.1, p.2.2.2.1, p.2.2.2.2.1, p.2.2.2.2.2.1, p.2.2.2.2.2.2.1, p.2.2.2.2.2.2.2.1, p.2.2.2.2.2.2.2.2.1, p.2.2.2.2.2.2.2.2.2.1, p.2.2.2.2.2.2.2.2.2.2⟩

/-- A legal instance put into an existing slot of `HBR` keeps the invariant. -/
theorem State.Inv.putHbr {s : State} (h : s.Inv) {i : Inst} {u : Hb F32} (hi : s.hasInst .hbr i = true)
    (hu : HbOk s.params u) : (s.putHbr i u).Inv where
  params := h.params
  sys := h.sys
  firr := h.firr
  firc := h.firc
  hbr j := Bank.forall_put (Q := fun _ u => HbOk s.params u) h.hbr hu j
  hbc := h.hbc
  hil := h.hil
  dcr := h.dcr
  nco := h.nco
  mix := h.mix
  fmd := h.fmd
  dbi := h.dbi
  cop := h.cop
  pastEnd j := by
    have p := h.pastEnd j
    have q : s.hasInst .hbr j = false → (s.hbr.put i u).at j = Hb.reset :=
      Bank.forall_put (b := s.hbr) (Q := fun j v => s.hasInst .hbr j = false → v = Hb.reset)
        (fun j => (h.pastEnd j).2.2.1) (fun hj => absurd (hi.symm.trans hj) (by decide)) j
    exact ⟨p.1, p.2.1, q, p.2.2.2.1, p.2.2.2.2.1, p.2.2.2.2.2.1, p.2.2.2.2.2.2.1, p.2.2.2.2.2.2.2.1, p.2.2.2.2.2.2.2.2.1, p.2.2.2.2.2.2.2.2.2.1, p.2.2.2.2.2.2.2.2.2.2⟩

/-- A legal instance put into an existing slot of `HBC` keeps the invariant. -/
theorem State.Inv.putHbc {s : State} (h : s.Inv) {i : Inst} {u : Hb Cplx} (hi : s.hasInst .hbc i = true)
    (hu : HbOk s.params u) : (s.putHbc i u).Inv where
  params := h.params
  sys := h.sys
  firr := h.firr
  firc := h.firc
  hbr := h.hbr
  hbc j := Bank.forall_put (Q := fun _ u => HbOk s.params u) h.hbc hu j
  hil := h.hil
  dcr := h.dcr
  nco := h.nco
  mix := h.mix
  fmd := h.fmd
  dbi := h.dbi
  cop := h.cop
  pastEnd j := by
    have p := h.pastEnd j
    have q : s.hasInst .hbc j = false → (s.hbc.put i u).at j = Hb.reset :=
      Bank.forall_put (b := s.hbc) (Q := fun j v => s.hasInst .hbc j = false → v = Hb.reset)
        (fun j => (h.pastEnd j).2.2.2.1) (fun hj => absurd (hi.symm.trans hj) (by decide)) j
    exact ⟨p.1, p.2.1, p.2.2.1, q, p.2.2.2.2.1, p.2.2.2.2.2.1, p.2.2.2.2.2.2.1, p.2.2.2.2.2.2.2.1, p.2.2.2.2.2.2.2.2.1, p.2.2.2.2.2.2.2.2.2.1, p.2.2.2.2.2.2.2.2.2.2⟩

/-- A legal instance put into an existing slot of `NCO` keeps the invariant. -/
theorem State.Inv.putNco {s : State} (h : s.Inv) {i : Inst} {u : Nco} (hi : s.hasInst .nco i = true)
    (hu : NcoOk s.params u) : (s.putNco i u).Inv where
  params := h.params
  sys := h.sys
  firr := h.firr
  firc := h.firc
  hbr := h.hbr
  hbc := h.hbc
  hil := h.hil
  dcr := h.dcr
  nco j := Bank.forall_put (Q := fun _ u => NcoOk s.params u) h.nco hu j
  mix := h.mix
  fmd := h.fmd
  dbi := h.dbi
  cop := h.cop
  pastEnd j := by
    have p := h.pastEnd j
    have q : s.hasInst .nco j = false → (s.nco.put i u).at j = Nco.reset :=
      Bank.forall_put (b := s.nco) (Q := fun j v => s.hasInst .nco j = false → v = Nco.reset)
        (fun j => (h.pastEnd j).2.2.2.2.2.2.1) (fun hj => absurd (hi.symm.trans hj) (by decide)) j
    exact ⟨p.1, p.2.1, p.2.2.1, p.2.2.2.1, p.2.2.2.2.1, p.2.2.2.2.2.1, q, p.2.2.2.2.2.2.2.1, p.2.2.2.2.2.2.2.2.1, p.2.2.2.2.2.2.2.2.2.1, p.2.2.2.2.2.2.2.2.2.2⟩

/-- A legal instance put into an existing slot of `MIX` keeps the invariant. -/
theorem State.Inv.putMix {s : State} (h : s.Inv) {i : Inst} {u : Mix} (hi : s.hasInst .mix i = true)
    (hu : MixOk s.params u) : (s.putMix i u).Inv where
  params := h.params
  sys := h.sys
  firr := h.firr
  firc := h.firc
  hbr := h.hbr
  hbc := h.hbc
  hil := h.hil
  dcr := h.dcr
  nco := h.nco
  mix j := Bank.forall_put (Q := fun _ u => MixOk s.params u) h.mix hu j
  fmd := h.fmd
  dbi := h.dbi
  cop := h.cop
  pastEnd j := by
    have p := h.pastEnd j
    have q : s.hasInst .mix j = false → (s.mix.put i u).at j = Mix.reset :=
      Bank.forall_put (b := s.mix) (Q := fun j v => s.hasInst .mix j = false → v = Mix.reset)
        (fun j => (h.pastEnd j).2.2.2.2.2.2.2.1) (fun hj => absurd (hi.symm.trans hj) (by decide)) j
    exact ⟨p.1, p.2.1, p.2.2.1, p.2.2.2.1, p.2.2.2.2.1, p.2.2.2.2.2.1, p.2.2.2.2.2.2.1, q, p.2.2.2.2.2.2.2.2.1, p.2.2.2.2.2.2.2.2.2.1, p.2.2.2.2.2.2.2.2.2.2⟩

/-- A legal instance put into an existing slot of `FMD` keeps the invariant. -/
theorem State.Inv.putFmd {s : State} (h : s.Inv) {i : Inst} {u : Fmd} (hi : s.hasInst .fmd i = true)
    (hu : FmdOk s.params u) : (s.putFmd i u).Inv where
  params := h.params
  sys := h.sys
  firr := h.firr
  firc := h.firc
  hbr := h.hbr
  hbc := h.hbc
  hil := h.hil
  dcr := h.dcr
  nco := h.nco
  mix := h.mix
  fmd j := Bank.forall_put (Q := fun _ u => FmdOk s.params u) h.fmd hu j
  dbi := h.dbi
  cop := h.cop
  pastEnd j := by
    have p := h.pastEnd j
    have q : s.hasInst .fmd j = false → (s.fmd.put i u).at j = Fmd.reset :=
      Bank.forall_put (b := s.fmd) (Q := fun j v => s.hasInst .fmd j = false → v = Fmd.reset)
        (fun j => (h.pastEnd j).2.2.2.2.2.2.2.2.1) (fun hj => absurd (hi.symm.trans hj) (by decide)) j
    exact ⟨p.1, p.2.1, p.2.2.1, p.2.2.2.1, p.2.2.2.2.1, p.2.2.2.2.2.1, p.2.2.2.2.2.2.1, p.2.2.2.2.2.2.2.1, q, p.2.2.2.2.2.2.2.2.2.1, p.2.2.2.2.2.2.2.2.2.2⟩

/-- A legal instance put into an existing slot of `COP` keeps the invariant. -/
theorem State.Inv.putCop {s : State} (h : s.Inv) {i : Inst} {u : Cop} (hi : s.hasInst .cop i = true)
    (hu : CopOk s.params u) : (s.putCop i u).Inv where
  params := h.params
  sys := h.sys
  firr := h.firr
  firc := h.firc
  hbr := h.hbr
  hbc := h.hbc
  hil := h.hil
  dcr := h.dcr
  nco := h.nco
  mix := h.mix
  fmd := h.fmd
  dbi := h.dbi
  cop j := Bank.forall_put (Q := fun _ u => CopOk s.params u) h.cop hu j
  pastEnd j := by
    have p := h.pastEnd j
    have q : s.hasInst .cop j = false → (s.cop.put i u).at j = Cop.reset :=
      Bank.forall_put (b := s.cop) (Q := fun j v => s.hasInst .cop j = false → v = Cop.reset)
        (fun j => (h.pastEnd j).2.2.2.2.2.2.2.2.2.2) (fun hj => absurd (hi.symm.trans hj) (by decide)) j
    exact ⟨p.1, p.2.1, p.2.2.1, p.2.2.2.1, p.2.2.2.2.1, p.2.2.2.2.2.1, p.2.2.2.2.2.2.1, p.2.2.2.2.2.2.2.1, p.2.2.2.2.2.2.2.2.1, p.2.2.2.2.2.2.2.2.2.1, q⟩

/-- A legal iterator put into an existing slot keeps the invariant. -/
theorem State.Inv.putDbi {s : State} (h : s.Inv) {i : Inst} {u : Dbi} (hi : s.hasInst .dbi i = true)
    (hu : DbiOk s.params u (s.hil.at i) (s.dcr.at i)) : (s.putDbi i u).Inv where
  params := h.params
  sys := h.sys
  firr := h.firr
  firc := h.firc
  hbr := h.hbr
  hbc := h.hbc
  hil := h.hil
  dcr := h.dcr
  nco := h.nco
  mix := h.mix
  fmd := h.fmd
  dbi j := Bank.forall_put (Q := fun j u => DbiOk s.params u (s.hil.at j) (s.dcr.at j)) h.dbi hu j
  cop := h.cop
  pastEnd j := by
    have p := h.pastEnd j
    have q : s.hasInst .dbi j = false → (s.dbi.put i u).at j = Dbi.reset :=
      Bank.forall_put (b := s.dbi) (Q := fun j v => s.hasInst .dbi j = false → v = Dbi.reset)
        (fun j => (h.pastEnd j).2.2.2.2.2.2.2.2.2.1) (fun hj => absurd (hi.symm.trans hj) (by decide)) j
    exact ⟨p.1, p.2.1, p.2.2.1, p.2.2.2.1, p.2.2.2.2.1, p.2.2.2.2.2.1, p.2.2.2.2.2.2.1, p.2.2.2.2.2.2.2.1, p.2.2.2.2.2.2.2.2.1, q, p.2.2.2.2.2.2.2.2.2.2⟩

/-- A legal, constructed instance put into an existing slot of `HIL` keeps the invariant. -/
theorem State.Inv.putHil {s : State} (h : s.Inv) {i : Inst} {u : Hil} (hi : s.hasInst .hil i = true)
    (hu : HilOk s.params u) (hc : u.constructed = true) : (s.putHil i u).Inv where
  params := h.params
  sys := h.sys
  firr := h.firr
  firc := h.firc
  hbr := h.hbr
  hbc := h.hbc
  hil j := Bank.forall_put (Q := fun _ u => HilOk s.params u) h.hil hu j
  dcr := h.dcr
  nco := h.nco
  mix := h.mix
  fmd := h.fmd
  dbi j := by
    have := h.dbi j
    unfold DbiOk at this ⊢
    split
    · rename_i ho
      rw [if_pos (by exact ho)] at this
      obtain ⟨a, b, c, d, e, f, g, k⟩ := this
      exact ⟨a, b, c, d, e, f, fun m => Bank.forall_put (b := s.hil) (i := i) (u := u)
        (Q := fun j' v => j' = j → v.constructed = true)
        (fun j' e => e ▸ g m) (fun _ => hc) j rfl, k⟩
    · rename_i ho
      rwa [if_neg (by exact ho)] at this
  cop := h.cop
  pastEnd j := by
    have p := h.pastEnd j
    have q : s.hasInst .hil j = false → (s.hil.put i u).at j = Hil.reset :=
      Bank.forall_put (b := s.hil) (Q := fun j v => s.hasInst .hil j = false → v = Hil.reset)
        (fun j => (h.pastEnd j).2.2.2.2.1) (fun hj => absurd (hi.symm.trans hj) (by decide)) j
    exact ⟨p.1, p.2.1, p.2.2.1, p.2.2.2.1, q, p.2.2.2.2.2.1, p.2.2.2.2.2.2.1, p.2.2.2.2.2.2.2.1, p.2.2.2.2.2.2.2.2.1, p.2.2.2.2.2.2.2.2.2.1, p.2.2.2.2.2.2.2.2.2.2⟩

/-- A legal, constructed instance put into an existing slot of `DCR` keeps the invariant. -/
theorem State.Inv.putDcr {s : State} (h : s.Inv) {i : Inst} {u : Dcr} (hi : s.hasInst .dcr i = true)
    (hu : DcrOk s.params u) (hc : u.constructed = true) : (s.putDcr i u).Inv where
  params := h.params
  sys := h.sys
  firr := h.firr
  firc := h.firc
  hbr := h.hbr
  hbc := h.hbc
  hil := h.hil
  dcr j := Bank.forall_put (Q := fun _ u => DcrOk s.params u) h.dcr hu j
  nco := h.nco
  mix := h.mix
  fmd := h.fmd
  dbi j := by
    have := h.dbi j
    unfold DbiOk at this ⊢
    split
    · rename_i ho
      rw [if_pos (by exact ho)] at this
      obtain ⟨a, b, c, d, e, f, g, k⟩ := this
      exact ⟨a, b, c, d, e, f, g, fun m => Bank.forall_put (b := s.dcr) (i := i) (u := u)
        (Q := fun j' v => j' = j → v.constructed = true)
        (fun j' e => e ▸ k m) (fun _ => hc) j rfl⟩
    · rename_i ho
      rwa [if_neg (by exact ho)] at this
  cop := h.cop
  pastEnd j := by
    have p := h.pastEnd j
    have q : s.hasInst .dcr j = false → (s.dcr.put i u).at j = Dcr.reset :=
      Bank.forall_put (b := s.dcr) (Q := fun j v => s.hasInst .dcr j = false → v = Dcr.reset)
        (fun j => (h.pastEnd j).2.2.2.2.2.1) (fun hj => absurd (hi.symm.trans hj) (by decide)) j
    exact ⟨p.1, p.2.1, p.2.2.1, p.2.2.2.1, p.2.2.2.2.1, q, p.2.2.2.2.2.2.1, p.2.2.2.2.2.2.2.1, p.2.2.2.2.2.2.2.2.1, p.2.2.2.2.2.2.2.2.2.1, p.2.2.2.2.2.2.2.2.2.2⟩

end Sys2Proof.Machine
end

