-- ==== Sys2Proof/Laws/PerInstr.lean ====
section
/-! SUPPORT. Sys2Proof/Laws/PerInstr.lean: statements made of every command as syntax, one lemma per constructor. The
family `Encoded`: the header of a command's packet selects the row of spec/opcode_table.json of that command's mnemonic,
and its packet has the words the header and the first operand call for (spec/30_encoding.md R103, R110). -/

namespace Sys2Proof.Laws.Encoded

/-- The packet of the command is one of its opcode-table row, of the right length. -/
def Statement (i : Instr) : Prop :=
  (∃ r ∈ opRows, r.mnemonic = i.mnemonic ∧ r.selects (encode i).header = true) ∧
  (i.WellFormed = true →
    (encode i).body.length = bodyWords (encode i).header ((encode i).body.getD 0 0))

/-! A header under the masks of the table. -/

theorem append_and {w v : Nat} (a c : BitVec w) (b d : BitVec v) : (a ++ b) &&& (c ++ d) = (a &&& c) ++ (b &&& d) := by
  ext k hk
  simp only [BitVec.getElem_and, BitVec.getElem_append]
  split <;> rfl

theorem mkHeader_and (op op' : BitVec 6) (i i' : Inst) (imm imm' : BitVec 22) :
    mkHeader op i imm &&& mkHeader op' i' imm' = mkHeader (op &&& op') (i &&& i') (imm &&& imm') :=
  (append_and (op ++ i) (op' ++ i') imm imm').trans (congrArg (· ++ (imm &&& imm')) (append_and op op' i i'))

theorem and_full (op : BitVec 6) : op &&& BitVec.allOnes 6 = op := BitVec.and_allOnes

theorem immTaps_and (d d' : BitVec 10) (l : Nat) (l' : BitVec 12) :
    immTaps d l &&& (d' ++ l') = (d &&& d') ++ (BitVec.ofNat 12 l &&& l') := append_and ..

/-- The mask of rows whose whole immediate is an operand. -/
theorem mask_opcode (op : BitVec 6) (i : Inst) (imm : BitVec 22) :
    mkHeader op i imm &&& 0xFC000000#32 = mkHeader op 0 0 := by
  rw [show (0xFC000000#32 : Word) = mkHeader (BitVec.allOnes 6) 0 0 by decide, mkHeader_and, and_full]
  simp

/-- The mask of rows whose immediate is zero. -/
theorem mask_noImm (op : BitVec 6) (i : Inst) : mkHeader op i 0 &&& 0xFC3FFFFF#32 = mkHeader op 0 0 := by
  rw [show (0xFC3FFFFF#32 : Word) = mkHeader (BitVec.allOnes 6) 0 (BitVec.allOnes 22) by decide, mkHeader_and, and_full]
  simp

/-- The mask of rows whose upper ten immediate bits are zero. -/
theorem mask_short (op : BitVec 6) (i : Inst) (imm : BitVec 22) (h : imm &&& 0x3FF000#22 = 0) :
    mkHeader op i imm &&& 0xFC3FF000#32 = mkHeader op 0 0 := by
  rw [show (0xFC3FF000#32 : Word) = mkHeader (BitVec.allOnes 6) 0 0x3FF000#22 by decide, mkHeader_and, and_full, h]
  simp

theorem immTaps_short (l : Nat) : immTaps 0 l &&& 0x3FF000#22 = 0 := by
  rw [show (0x3FF000#22 : BitVec 22) = BitVec.allOnes 10 ++ 0#12 by decide, immTaps_and]
  simp

theorem immReg_short (rk : BitVec 4) (rn : BitVec 8) : immReg rk rn &&& 0x3FF000#22 = 0 := by
  rw [show (0x3FF000#22 : BitVec 22) = BitVec.allOnes 10 ++ 0#4 ++ 0#8 by decide, immReg, append_and, append_and]
  simp

/-! One lemma per constructor. -/

theorem sysNop : Statement (.sysNop) :=
  ⟨⟨⟨"SYS.NOP", 0x00000000, 0xFFFFFFFF⟩, by decide, rfl, by decide⟩, fun _ => by simp [encode, bodyWords]⟩

theorem sysRdreg (i : Inst) (rk : BitVec 4) (rn : BitVec 8) : Statement (.sysRdreg i rk rn) :=
  ⟨⟨⟨"SYS.RDREG", 0x04000000, 0xFC3FF000⟩, by decide, rfl, decide_eq_true (mask_short _ _ _ (immReg_short ..))⟩, fun _ => by simp [encode, bodyWords]⟩

theorem sysWrreg (i : Inst) (rk : BitVec 4) (rn : BitVec 8) (v : Word) : Statement (.sysWrreg i rk rn v) :=
  ⟨⟨⟨"SYS.WRREG", 0x08000000, 0xFC3FF000⟩, by decide, rfl, decide_eq_true (mask_short _ _ _ (immReg_short ..))⟩, fun _ => by simp [encode, bodyWords]⟩

theorem sysReset : Statement (.sysReset) :=
  ⟨⟨⟨"SYS.RESET", 0x0C000000, 0xFFFFFFFF⟩, by decide, rfl, by decide⟩, fun _ => by simp [encode, bodyWords]⟩

theorem firrLoad (i : Inst) (d : BitVec 10) (c : List F32) : Statement (.firrLoad i d c) :=
  ⟨⟨⟨"FIRR.LOAD", 0x10000000, 0xFC000000⟩, by decide, rfl, decide_eq_true (mask_opcode ..)⟩, fun h => by
    have h2 : c.length % 4096 = c.length := Nat.mod_eq_of_lt (by simpa [Instr.WellFormed] using h)
    simp [encode, bodyWords, lenOf_taps, h2]⟩

theorem firrProc (i : Inst) (x : List F32) : Statement (.firrProc i x) :=
  ⟨⟨⟨"FIRR.PROC", 0x14000000, 0xFC000000⟩, by decide, rfl, decide_eq_true (mask_opcode ..)⟩, fun h => by
    have h2 : x.length % 4194304 = x.length := Nat.mod_eq_of_lt (by simpa [Instr.WellFormed] using h)
    simp [encode, bodyWords, h2]⟩

theorem firrClr (i : Inst) : Statement (.firrClr i) :=
  ⟨⟨⟨"FIRR.CLR", 0x18000000, 0xFC3FFFFF⟩, by decide, rfl, decide_eq_true (mask_noImm ..)⟩, fun _ => by simp [encode, bodyWords]⟩

theorem fircLoad (i : Inst) (d : BitVec 10) (c : List F32) : Statement (.fircLoad i d c) :=
  ⟨⟨⟨"FIRC.LOAD", 0x20000000, 0xFC000000⟩, by decide, rfl, decide_eq_true (mask_opcode ..)⟩, fun h => by
    have h2 : c.length % 4096 = c.length := Nat.mod_eq_of_lt (by simpa [Instr.WellFormed] using h)
    simp [encode, bodyWords, lenOf_taps, h2]⟩

theorem fircProc (i : Inst) (x : List Cplx) : Statement (.fircProc i x) :=
  ⟨⟨⟨"FIRC.PROC", 0x24000000, 0xFC000000⟩, by decide, rfl, decide_eq_true (mask_opcode ..)⟩, fun h => by
    have h2 : x.length % 4194304 = x.length := Nat.mod_eq_of_lt (by simpa [Instr.WellFormed] using h)
    simp [encode, bodyWords, h2]⟩

theorem fircClr (i : Inst) : Statement (.fircClr i) :=
  ⟨⟨⟨"FIRC.CLR", 0x28000000, 0xFC3FFFFF⟩, by decide, rfl, decide_eq_true (mask_noImm ..)⟩, fun _ => by simp [encode, bodyWords]⟩

theorem hbrLoad (i : Inst) (c : List F32) : Statement (.hbrLoad i c) :=
  ⟨⟨⟨"HBR.LOAD", 0x30000000, 0xFC3FF000⟩, by decide, rfl, decide_eq_true (mask_short _ _ _ (immTaps_short _))⟩, fun h => by
    have h2 : c.length % 4096 = c.length := Nat.mod_eq_of_lt (by simpa [Instr.WellFormed] using h)
    simp [encode, bodyWords, lenOf_taps, h2]⟩

theorem hbrProc (i : Inst) (x : List F32) : Statement (.hbrProc i x) :=
  ⟨⟨⟨"HBR.PROC", 0x34000000, 0xFC000000⟩, by decide, rfl, decide_eq_true (mask_opcode ..)⟩, fun h => by
    have h2 : x.length % 4194304 = x.length := Nat.mod_eq_of_lt (by simpa [Instr.WellFormed] using h)
    simp [encode, bodyWords, h2]⟩

theorem hbrClr (i : Inst) : Statement (.hbrClr i) :=
  ⟨⟨⟨"HBR.CLR", 0x38000000, 0xFC3FFFFF⟩, by decide, rfl, decide_eq_true (mask_noImm ..)⟩, fun _ => by simp [encode, bodyWords]⟩

theorem hbcLoad (i : Inst) (c : List F32) : Statement (.hbcLoad i c) :=
  ⟨⟨⟨"HBC.LOAD", 0x40000000, 0xFC3FF000⟩, by decide, rfl, decide_eq_true (mask_short _ _ _ (immTaps_short _))⟩, fun h => by
    have h2 : c.length % 4096 = c.length := Nat.mod_eq_of_lt (by simpa [Instr.WellFormed] using h)
    simp [encode, bodyWords, lenOf_taps, h2]⟩

theorem hbcProc (i : Inst) (x : List Cplx) : Statement (.hbcProc i x) :=
  ⟨⟨⟨"HBC.PROC", 0x44000000, 0xFC000000⟩, by decide, rfl, decide_eq_true (mask_opcode ..)⟩, fun h => by
    have h2 : x.length % 4194304 = x.length := Nat.mod_eq_of_lt (by simpa [Instr.WellFormed] using h)
    simp [encode, bodyWords, h2]⟩

theorem hbcClr (i : Inst) : Statement (.hbcClr i) :=
  ⟨⟨⟨"HBC.CLR", 0x48000000, 0xFC3FFFFF⟩, by decide, rfl, decide_eq_true (mask_noImm ..)⟩, fun _ => by simp [encode, bodyWords]⟩

theorem hilLoad (i : Inst) (c : List F32) : Statement (.hilLoad i c) :=
  ⟨⟨⟨"HIL.LOAD", 0x50000000, 0xFC3FF000⟩, by decide, rfl, decide_eq_true (mask_short _ _ _ (immTaps_short _))⟩, fun h => by
    have h2 : c.length % 4096 = c.length := Nat.mod_eq_of_lt (by simpa [Instr.WellFormed] using h)
    simp [encode, bodyWords, lenOf_taps, h2]⟩

theorem hilProc (i : Inst) (x : List Cplx) : Statement (.hilProc i x) :=
  ⟨⟨⟨"HIL.PROC", 0x54000000, 0xFC000000⟩, by decide, rfl, decide_eq_true (mask_opcode ..)⟩, fun h => by
    have h2 : x.length % 4194304 = x.length := Nat.mod_eq_of_lt (by simpa [Instr.WellFormed] using h)
    simp [encode, bodyWords, h2]⟩

theorem hilClr (i : Inst) : Statement (.hilClr i) :=
  ⟨⟨⟨"HIL.CLR", 0x58000000, 0xFC3FFFFF⟩, by decide, rfl, decide_eq_true (mask_noImm ..)⟩, fun _ => by simp [encode, bodyWords]⟩

theorem dcrLoad (i : Inst) (a : F32) : Statement (.dcrLoad i a) :=
  ⟨⟨⟨"DCR.LOAD", 0x60000000, 0xFC3FFFFF⟩, by decide, rfl, decide_eq_true (mask_noImm ..)⟩, fun _ => by simp [encode, bodyWords]⟩

theorem dcrProc (i : Inst) (x : List F32) : Statement (.dcrProc i x) :=
  ⟨⟨⟨"DCR.PROC", 0x64000000, 0xFC000000⟩, by decide, rfl, decide_eq_true (mask_opcode ..)⟩, fun h => by
    have h2 : x.length % 4194304 = x.length := Nat.mod_eq_of_lt (by simpa [Instr.WellFormed] using h)
    simp [encode, bodyWords, h2]⟩

theorem dcrClr (i : Inst) : Statement (.dcrClr i) :=
  ⟨⟨⟨"DCR.CLR", 0x68000000, 0xFC3FFFFF⟩, by decide, rfl, decide_eq_true (mask_noImm ..)⟩, fun _ => by simp [encode, bodyWords]⟩

theorem ncoLoad (i : Inst) (inc : Word) : Statement (.ncoLoad i inc) :=
  ⟨⟨⟨"NCO.LOAD", 0x70000000, 0xFC3FFFFF⟩, by decide, rfl, decide_eq_true (mask_noImm ..)⟩, fun _ => by simp [encode, bodyWords]⟩

theorem ncoGen (i : Inst) (n : BitVec 22) : Statement (.ncoGen i n) :=
  ⟨⟨⟨"NCO.GEN", 0x74000000, 0xFC000000⟩, by decide, rfl, decide_eq_true (mask_opcode ..)⟩, fun _ => by simp [encode, bodyWords]⟩

theorem ncoClr (i : Inst) : Statement (.ncoClr i) :=
  ⟨⟨⟨"NCO.CLR", 0x78000000, 0xFC3FFFFF⟩, by decide, rfl, decide_eq_true (mask_noImm ..)⟩, fun _ => by simp [encode, bodyWords]⟩

theorem mixLoad (i : Inst) : Statement (.mixLoad i) :=
  ⟨⟨⟨"MIX.LOAD", 0x80000000, 0xFC3FFFFF⟩, by decide, rfl, decide_eq_true (mask_noImm ..)⟩, fun _ => by simp [encode, bodyWords]⟩

theorem mixProc (i : Inst) (x : List Cplx) : Statement (.mixProc i x) :=
  ⟨⟨⟨"MIX.PROC", 0x84000000, 0xFC000000⟩, by decide, rfl, decide_eq_true (mask_opcode ..)⟩, fun h => by
    have h2 : x.length % 4194304 = x.length := Nat.mod_eq_of_lt (by simpa [Instr.WellFormed] using h)
    simp [encode, bodyWords, h2]⟩

theorem fmdLoad (i : Inst) : Statement (.fmdLoad i) :=
  ⟨⟨⟨"FMD.LOAD", 0x90000000, 0xFC3FFFFF⟩, by decide, rfl, decide_eq_true (mask_noImm ..)⟩, fun _ => by simp [encode, bodyWords]⟩

theorem fmdProc (i : Inst) (x : List Cplx) : Statement (.fmdProc i x) :=
  ⟨⟨⟨"FMD.PROC", 0x94000000, 0xFC000000⟩, by decide, rfl, decide_eq_true (mask_opcode ..)⟩, fun h => by
    have h2 : x.length % 4194304 = x.length := Nat.mod_eq_of_lt (by simpa [Instr.WellFormed] using h)
    simp [encode, bodyWords, h2]⟩

theorem fmdClr (i : Inst) : Statement (.fmdClr i) :=
  ⟨⟨⟨"FMD.CLR", 0x98000000, 0xFC3FFFFF⟩, by decide, rfl, decide_eq_true (mask_noImm ..)⟩, fun _ => by simp [encode, bodyWords]⟩

theorem dbiOpen (i : Inst) (n : BitVec 22) (flags lo hi : Word) (ri rq : List F32) (raw : List Word) : Statement (.dbiOpen i n flags lo hi ri rq raw) :=
  ⟨⟨⟨"DBI.OPEN", 0xA0000000, 0xFC000000⟩, by decide, rfl, decide_eq_true (mask_opcode ..)⟩, fun h => by
    simp only [Instr.WellFormed, Bool.and_eq_true, decide_eq_true_eq] at h
    obtain ⟨⟨h1, h2⟩, h3⟩ := h
    simp [encode, bodyWords, h1, h2, h3]; omega⟩

theorem dbiNext (i : Inst) : Statement (.dbiNext i) :=
  ⟨⟨⟨"DBI.NEXT", 0xA4000000, 0xFC3FFFFF⟩, by decide, rfl, decide_eq_true (mask_noImm ..)⟩, fun _ => by simp [encode, bodyWords]⟩

theorem dbiClr (i : Inst) : Statement (.dbiClr i) :=
  ⟨⟨⟨"DBI.CLR", 0xA8000000, 0xFC3FFFFF⟩, by decide, rfl, decide_eq_true (mask_noImm ..)⟩, fun _ => by simp [encode, bodyWords]⟩

theorem dbiResid (i : Inst) : Statement (.dbiResid i) :=
  ⟨⟨⟨"DBI.RESID", 0xAC000000, 0xFC3FFFFF⟩, by decide, rfl, decide_eq_true (mask_noImm ..)⟩, fun _ => by simp [encode, bodyWords]⟩

theorem copOpen (i : Inst) (cap rec out : Word) : Statement (.copOpen i cap rec out) :=
  ⟨⟨⟨"COP.OPEN", 0xB0000000, 0xFC3FFFFF⟩, by decide, rfl, decide_eq_true (mask_noImm ..)⟩, fun _ => by simp [encode, bodyWords]⟩

theorem copSubmit (i : Inst) (lo hi : Word) (x : List Cplx) : Statement (.copSubmit i lo hi x) :=
  ⟨⟨⟨"COP.SUBMIT", 0xB4000000, 0xFC000000⟩, by decide, rfl, decide_eq_true (mask_opcode ..)⟩, fun h => by
    have h2 : x.length % 4194304 = x.length := Nat.mod_eq_of_lt (by simpa [Instr.WellFormed] using h)
    simp [encode, bodyWords, h2]; omega⟩

theorem copDrain (i : Inst) (m : BitVec 22) : Statement (.copDrain i m) :=
  ⟨⟨⟨"COP.DRAIN", 0xB8000000, 0xFC000000⟩, by decide, rfl, decide_eq_true (mask_opcode ..)⟩, fun _ => by simp [encode, bodyWords]⟩

theorem copDetach (i : Inst) : Statement (.copDetach i) :=
  ⟨⟨⟨"COP.DETACH", 0xBC000000, 0xFC3FFFFF⟩, by decide, rfl, decide_eq_true (mask_noImm ..)⟩, fun _ => by simp [encode, bodyWords]⟩

end Sys2Proof.Laws.Encoded
end

