-- ==== Sys2Proof/Laws/Schedule.lean ====
section
/-! SUPPORT. Sys2Proof/Laws/Schedule.lean: which packets are ready, and what placing a packet leaves. -/

namespace Sys2Proof.Machine

/-- Which positions are ready: those whose packet shares no key with what is held before the list, nor with an earlier
packet of it. -/
theorem mem_readyFrom_iff {s : State} {held : List Key} {before : List Packet} {j n : Nat} {ps : List Packet} :
    n ∈ readyFrom s held before j ps ↔ ∃ k p, n = j + k ∧ ps[k]? = some p ∧
      ∀ x ∈ keysOf s (before ++ ps.take k) p, x ∉ held ∧
        ∀ (m : Nat) (q : Packet), m < k → ps[m]? = some q → x ∉ keysOf s (before ++ ps.take m) q := by
  induction ps generalizing held before j with
  | nil => simp [readyFrom]
  | cons p ps ih =>
    have tail : n ∈ readyFrom s (held ++ keysOf s before p) (before ++ [p]) (j + 1) ps ↔
        ∃ k q, n = j + (k + 1) ∧ ps[k]? = some q ∧
          ∀ x ∈ keysOf s (before ++ p :: ps.take k) q, x ∉ held ∧
            ∀ (m : Nat) (r : Packet), m < k + 1 → (p :: ps)[m]? = some r →
              x ∉ keysOf s (before ++ (p :: ps).take m) r := by
      rw [ih]
      refine exists₂_congr fun k q => ?_
      rw [Nat.add_assoc, Nat.add_comm 1 k, List.append_assoc, List.singleton_append]
      refine and_congr_right fun _ => and_congr_right fun _ => forall₂_congr fun x _ => ?_
      constructor
      · rintro ⟨h, hm⟩
        rw [List.mem_append, not_or] at h
        refine ⟨h.1, fun m r hlt hr => ?_⟩
        cases m with
        | zero => simpa [Option.some.inj hr] using h.2
        | succ m => simpa using hm m r (by omega) (by simpa using hr)
      · rintro ⟨h, hm⟩
        refine ⟨?_, fun m r hlt hr => ?_⟩
        · rw [List.mem_append, not_or]
          exact ⟨h, by simpa using hm 0 p (by omega) rfl⟩
        · simpa using hm (m + 1) r (by omega) (by simpa using hr)
    have head : (keysOf s before p).all (fun k => !held.contains k) = true ↔ ∀ x ∈ keysOf s before p, x ∉ held := by
      simp
    constructor
    · intro h
      rw [readyFrom] at h
      split at h
      · rename_i hall
        rcases List.mem_cons.mp h with rfl | h
        · exact ⟨0, p, rfl, rfl, fun x hx => ⟨head.mp hall x (by simpa using hx), fun m _ hm => absurd hm (by omega)⟩⟩
        · obtain ⟨k, q, e⟩ := tail.mp h
          exact ⟨k + 1, q, e⟩
      · obtain ⟨k, q, e⟩ := tail.mp h
        exact ⟨k + 1, q, e⟩
    · rintro ⟨k, q, hn, hq, hk⟩
      rw [readyFrom]
      cases k with
      | zero =>
        obtain rfl := Option.some.inj hq
        rw [if_pos (head.mpr fun x hx => (hk x (by simpa using hx)).1)]
        exact hn ▸ List.mem_cons_self
      | succ k =>
        have h := tail.mpr ⟨k, q, hn, hq, hk⟩
        split
        · exact List.mem_cons_of_mem _ h
        · exact h

/-- The first packet is ready when no drain is between its phases. -/
theorem zero_mem_readyFrom (s : State) (before : List Packet) (j : Nat) (p : Packet) (ps : List Packet) :
    j ∈ readyFrom s [] before j (p :: ps) := by
  simp [readyFrom]

/-- A command is a possible step exactly when its position is ready. -/
theorem issue_mem_choices (s : State) (k : Nat) :
    Choice.issue k ∈ choices s ↔ k ∈ readyFrom s (heldByDrains s) [] 0 s.cmd := by
  simp [choices]

/-- With no drain between its phases nothing is held. -/
theorem heldByDrains_nil {s : State} (h : drainingChannels s = []) : heldByDrains s = [] := by
  simp [heldByDrains, h]

/-- Every channel index is listed. -/
theorem mem_channels (c : Inst) : c ∈ channels := by
  simp only [channels, List.mem_map, List.mem_range]
  exact ⟨c.toNat, c.isLt, by simp⟩

/-- A channel is between the phases of a drain exactly when it holds blocks in flight. -/
theorem mem_drainingChannels (s : State) (c : Inst) :
    c ∈ drainingChannels s ↔ (s.cop.at c).inflight.isSome = true := by
  simp [drainingChannels, mem_channels]

end Sys2Proof.Machine
end

