-- ==== Sys2Proof/Laws/Units.lean ====
section
/-! SUPPORT. Sys2Proof/Laws/Units.lean: the shared operations of the register commands and of the iterator: which register
an address names, what a write can do, the two paths of a fragment. -/

namespace Sys2Proof.Machine

/-! Register addresses. -/

/-- `RKIND` numbers name their kinds, and no other number does (R102). -/
theorem kindOfCode_eq_some {n : Nat} {k : Kind} : kindOfCode n = some k ↔ n = k.code.toNat := by
  constructor
  · intro h
    unfold kindOfCode at h
    split at h <;> first | (cases h; rfl) | cases h
  · rintro rfl
    cases k <;> rfl

/-- The address checks of R142 pass exactly on a register of an instance that exists. -/
theorem addressed_eq_some {s : State} {i : Inst} {rk : BitVec 4} {n : BitVec 8} {k : Kind} {v : Word} :
    addressed s i rk n = some (k, v) ↔ rk = k.code ∧ s.hasInst k i = true ∧ readReg s k i n.toNat = some v := by
  unfold addressed
  constructor
  · intro h
    split at h
    · cases h
    · rename_i k' hk
      split at h
      · rename_i hi
        obtain ⟨w, hw, e⟩ := Option.map_eq_some_iff.mp h
        obtain ⟨rfl, rfl⟩ := Prod.mk.inj e
        exact ⟨BitVec.eq_of_toNat_eq (kindOfCode_eq_some.mp hk), hi, hw⟩
      · cases h
  · rintro ⟨rfl, hi, hv⟩
    simp [kindOfCode_eq_some.mpr (rfl : k.code.toNat = k.code.toNat), hi, hv]

/-- What a register read can do: an argument error, or the value and nothing else (R142). -/
theorem execSysRdreg_cases (i : Inst) (rk : BitVec 4) (n : BitVec 8) (s : State) :
    (addressed s i rk n = none ∧ execSysRdreg i rk n s = .next (s.raise .invalidArgument ⟨0, 1, i⟩)) ∨
    ∃ k v, addressed s i rk n = some (k, v) ∧ execSysRdreg i rk n s = .next (s.answer 0 [v]) := by
  cases h : addressed s i rk n with
  | none => exact .inl ⟨rfl, by simp [execSysRdreg, h]⟩
  | some a => exact .inr ⟨a.1, a.2, rfl, by simp [execSysRdreg, h]⟩

/-- What a write to a `SYS` register can do (R143). -/
theorem writeSys_cases (s : State) (id : CmdId) (n : Nat) (v : Word) :
    writeSys s id n v = .next (s.raise .invalidArgument id) ∨
    (n = 2 ∧ writeSys s id n v = .next ((s.putSys { s.sys with errflags := clearFlags s.sys.errflags v }).answer 0 [])) ∨
    ∃ (k : Fin 9) (x : Variant), n = k.val + 17 ∧ writableVariant s.params v.toNat = some x ∧
      writeSys s id n v =
        .next ((s.putSys { s.sys with variant := s.sys.variant.set k.val x k.isLt }).answer 0 []) := by
  unfold writeSys
  split
  · exact .inr (.inl ⟨‹_›, rfl⟩)
  · split
    · rename_i h
      cases hx : writableVariant s.params v.toNat with
      | none => exact .inl rfl
      | some x => exact .inr (.inr ⟨⟨n - 17, by omega⟩, x, by simp; omega, rfl, rfl⟩)
    · exact .inl rfl

/-- What a write to a `COP` register can do (R143). -/
theorem writeCop_cases (s : State) (id : CmdId) (i : Inst) (n : Nat) (v : Word) :
    (∃ e, e ≠ .ok ∧ writeCop s id i n v = .next (s.raise e id)) ∨
    ((s.cop.at i).opened = true ∧ n = 4 ∧
      writeCop s id i n v = .next ((s.putCop i { s.cop.at i with gain := v }).answer 0 [])) ∨
    ((s.cop.at i).opened = true ∧ n = 5 ∧
      writeCop s id i n v = .next ((s.putCop i { s.cop.at i with finc := v }).answer 0 [])) := by
  unfold writeCop
  by_cases h4 : n = 4
  · cases h : (s.cop.at i).opened
    · exact .inl ⟨.notConstructed, by decide, by simp [h4, h, State.command]⟩
    · exact .inr (.inl ⟨rfl, h4, by simp [h4, h, State.command]⟩)
  · by_cases h5 : n = 5
    · cases h : (s.cop.at i).opened
      · exact .inl ⟨.notConstructed, by decide, by simp [h5, h, State.command]⟩
      · exact .inr (.inr ⟨rfl, h5, by simp [h5, h, State.command]⟩)
    · exact .inl ⟨.invalidArgument, by decide, by simp [h4, h5]⟩

/-- A variant that may be written is one of those a register may hold (R26). -/
theorem writableVariant_ok {P : Params} {n : Nat} {x : Variant} (h : writableVariant P n = some x) :
    x.code = n ∧ (x = .uncalibrated ∨ x.code ≤ P.hwMaxVariant) := by
  unfold writableVariant at h
  split at h
  · cases h
  · rename_i hn
    unfold Variant.ofCode at h
    split at h <;> first
      | (cases h; exact ⟨rfl, .inl rfl⟩)
      | (cases h; exact ⟨rfl, .inr (by simp [Variant.code] at * <;> omega)⟩)
      | cases h

/-! The iterator. -/

/-- The DC stage of a fragment keeps the number of samples (R362). -/
theorem length_dcStage (dcen : Bool) (alpha avg : F32) (x : List Cplx) : (dcStage dcen alpha avg x).1.length = x.length := by
  cases dcen
  · rfl
  · simp [dcStage, length_pairs]

/-- The real-sampled path keeps the lengths of the residuals and gives one output for each pair (R362). -/
theorem realPath_lengths (P : Params) (c : List F32) (dcen : Bool) (alpha avg : F32) (ri rq : List F32) (x : List Cplx) :
    (realPath P c dcen alpha avg ri rq x).1.length = x.length ∧
    (realPath P c dcen alpha avg ri rq x).2.1.length = ri.length ∧
    (realPath P c dcen alpha avg ri rq x).2.2.1.length = rq.length := by
  simp [realPath, length_dcStage]

/-- A fragment in native mode: only `POS` advances (R360, R361). -/
theorem dbiAdvance_native {s : State} {i : Inst} (h : (s.dbi.at i).mode = false) :
    dbiAdvance s i = (s.putDbi i { s.dbi.at i with pos := (s.dbi.at i).pos + 1 }).answer s.params.fragSize
      (stampLo (s.dbi.at i).ts :: stampHi (s.dbi.at i).ts ::
        interleave (fragmentPairs s.params (s.dbi.at i).packed (s.dbi.at i).raw (s.dbi.at i).pos)) := by
  simp [dbiAdvance, h]

end Sys2Proof.Machine
end

