-- ==== Sys2Proof/Tests/Slice0.lean ====
section
/-! SUPPORT. Sys2Proof/Tests/Slice0.lean: tests. Well-formedness refuses what no packet carries; a word of every
command written out bit by bit from the encoding tables (R101 to R107) decodes to it; one step of each command on a
small state, the expected values from spec/95_test_vectors.md and from the rules' own examples; and, for every
statement with hypotheses, values that meet them all. -/

section Slice0

set_option Elab.async false

open Sys2Proof Sys2Proof.Machine

/-! Well-formedness: a term that each check refuses, and one at its limit that it takes. -/

theorem test_wellformed_taps : Instr.WellFormed (.firrLoad 0 1 (List.replicate 4096 0)) = false ∧
    Instr.WellFormed (.hilLoad 0 (List.replicate 4096 0)) = false ∧
    Instr.WellFormed (.firrLoad 0 1 (List.replicate 4095 0)) = true := by
  simp only [Instr.WellFormed, fitsL, List.length_replicate]
  decide

theorem test_wellformed_block : Instr.WellFormed (.dcrProc 0 (List.replicate (2 ^ 22) 0)) = false ∧
    Instr.WellFormed (.copSubmit 0 0 0 (List.replicate (2 ^ 22) (0, 0))) = false ∧
    Instr.WellFormed (.dcrProc 0 (List.replicate (2 ^ 22 - 1) 0)) = true := by
  simp only [Instr.WellFormed, fitsN, List.length_replicate]
  decide

theorem test_wellformed_open : Instr.WellFormed (.dbiOpen 0 5 0x00170B01 0 0 (List.replicate 11 0) (List.replicate 23 0)
      [0, 0]) = true ∧
    Instr.WellFormed (.dbiOpen 0 5 0x00170B01 0 0 (List.replicate 10 0) (List.replicate 23 0) [0, 0]) = false ∧
    Instr.WellFormed (.dbiOpen 0 5 0x00170B01 0 0 (List.replicate 11 0) (List.replicate 22 0) [0, 0]) = false ∧
    Instr.WellFormed (.dbiOpen 0 5 0x00170B01 0 0 (List.replicate 11 0) (List.replicate 23 0) [0]) = false := by
  decide +kernel

/-! Decoding: `KIND`, `FUNC`, `INST`, then the fields of `IMM`, written bit by bit. -/

theorem test_decode_sys :
    decode ⟨0b0000_00_0000_0000000000000000000000, []⟩ = .ok .sysNop ∧
    decode ⟨0b0000_01_0011_0000000000_0111_00000101, []⟩ = .ok (.sysRdreg 3 7 5) ∧
    decode ⟨0b0000_10_0001_0000000000_1011_00000100, [0x40000000]⟩ = .ok (.sysWrreg 1 11 4 0x40000000) ∧
    decode ⟨0b0000_11_0000_0000000000000000000000, []⟩ = .ok .sysReset := by decide +kernel

theorem test_decode_fir :
    decode ⟨0b0001_00_0001_0000000010_000000000011, [7, 8, 9]⟩ = .ok (.firrLoad 1 2 [7, 8, 9]) ∧
    decode ⟨0b0001_01_0001_0000000000000000000010, [7, 8]⟩ = .ok (.firrProc 1 [7, 8]) ∧
    decode ⟨0b0001_10_0001_0000000000000000000000, []⟩ = .ok (.firrClr 1) ∧
    decode ⟨0b0010_00_1111_1111111111_000000000001, [7]⟩ = .ok (.fircLoad 15 1023 [7]) ∧
    decode ⟨0b0010_01_0010_0000000000000000000001, [7, 8]⟩ = .ok (.fircProc 2 [(7, 8)]) ∧
    decode ⟨0b0010_10_0010_0000000000000000000000, []⟩ = .ok (.fircClr 2) := by decide +kernel

theorem test_decode_halfband :
    decode ⟨0b0011_00_0101_0000000000_000000000010, [7, 8]⟩ = .ok (.hbrLoad 5 [7, 8]) ∧
    decode ⟨0b0011_01_0101_0000000000000000000001, [7]⟩ = .ok (.hbrProc 5 [7]) ∧
    decode ⟨0b0011_10_0101_0000000000000000000000, []⟩ = .ok (.hbrClr 5) ∧
    decode ⟨0b0100_00_0110_0000000000_000000000010, [7, 8]⟩ = .ok (.hbcLoad 6 [7, 8]) ∧
    decode ⟨0b0100_01_0110_0000000000000000000001, [7, 8]⟩ = .ok (.hbcProc 6 [(7, 8)]) ∧
    decode ⟨0b0100_10_0110_0000000000000000000000, []⟩ = .ok (.hbcClr 6) := by decide +kernel

theorem test_decode_hilbert_dcr :
    decode ⟨0b0101_00_0001_0000000000_000000000001, [7]⟩ = .ok (.hilLoad 1 [7]) ∧
    decode ⟨0b0101_01_0001_0000000000000000000001, [7, 8]⟩ = .ok (.hilProc 1 [(7, 8)]) ∧
    decode ⟨0b0101_10_0001_0000000000000000000000, []⟩ = .ok (.hilClr 1) ∧
    decode ⟨0b0110_00_0010_0000000000000000000000, [7]⟩ = .ok (.dcrLoad 2 7) ∧
    decode ⟨0b0110_01_0010_0000000000000000000010, [7, 8]⟩ = .ok (.dcrProc 2 [7, 8]) ∧
    decode ⟨0b0110_10_0010_0000000000000000000000, []⟩ = .ok (.dcrClr 2) := by decide +kernel

theorem test_decode_nco_mix_fmd :
    decode ⟨0b0111_00_0011_0000000000000000000000, [7]⟩ = .ok (.ncoLoad 3 7) ∧
    decode ⟨0b0111_01_0011_1000000000000000000001, []⟩ = .ok (.ncoGen 3 0x200001) ∧
    decode ⟨0b0111_10_0011_0000000000000000000000, []⟩ = .ok (.ncoClr 3) ∧
    decode ⟨0b1000_00_0011_0000000000000000000000, []⟩ = .ok (.mixLoad 3) ∧
    decode ⟨0b1000_01_0011_0000000000000000000001, [7, 8]⟩ = .ok (.mixProc 3 [(7, 8)]) ∧
    decode ⟨0b1001_00_0011_0000000000000000000000, []⟩ = .ok (.fmdLoad 3) ∧
    decode ⟨0b1001_01_0011_0000000000000000000001, [7, 8]⟩ = .ok (.fmdProc 3 [(7, 8)]) ∧
    decode ⟨0b1001_10_0011_0000000000000000000000, []⟩ = .ok (.fmdClr 3) := by decide +kernel

theorem test_decode_dbi :
    decode ⟨0b1010_00_0001_0000000000000000000101, [0b00000000_00000001_00000010_00000001, 1, 2, 3, 4, 5, 6, 7]⟩ =
      .ok (.dbiOpen 1 5 0x00010201 1 2 [3, 4] [5] [6, 7]) ∧
    decode ⟨0b1010_01_0001_0000000000000000000000, []⟩ = .ok (.dbiNext 1) ∧
    decode ⟨0b1010_10_0001_0000000000000000000000, []⟩ = .ok (.dbiClr 1) ∧
    decode ⟨0b1010_11_0001_0000000000000000000000, []⟩ = .ok (.dbiResid 1) := by decide +kernel

theorem test_decode_cop :
    decode ⟨0b1011_00_0001_0000000000000000000000, [4, 2, 3]⟩ = .ok (.copOpen 1 4 2 3) ∧
    decode ⟨0b1011_01_0001_0000000000000000000001, [100, 1, 7, 8]⟩ = .ok (.copSubmit 1 100 1 [(7, 8)]) ∧
    decode ⟨0b1011_10_0001_0000000000000000010000, []⟩ = .ok (.copDrain 1 16) ∧
    decode ⟨0b1011_11_0001_0000000000000000000000, []⟩ = .ok (.copDetach 1) := by decide +kernel

/-- V-SYS-8, V-SYS-9, V-SYS-10; a must-be-zero bit of `IMM`; and wrong word counts (R72). -/
theorem test_decode_rejects :
    decode ⟨0x0C000001, []⟩ = .error (.illegalHeader 0x0C000001) ∧
    decode ⟨0xC0000000, []⟩ = .error (.illegalHeader 0xC0000000) ∧
    decode ⟨0x1C000000, []⟩ = .error (.illegalHeader 0x1C000000) ∧
    decode ⟨0x88000000, []⟩ = .error (.illegalHeader 0x88000000) ∧
    decode ⟨0x30001003, [0, 0, 0]⟩ = .error (.illegalHeader 0x30001003) ∧
    decode ⟨0x14000002, [1]⟩ = .error (.wrongCount 0x14000002) ∧
    decode ⟨0x24000001, [1, 2, 3]⟩ = .error (.wrongCount 0x24000001) := by decide +kernel

/-- The host's numbering: header in bits 31 to 0, the next word in bits 63 to 32. -/
theorem test_decodeTableWord :
    decodeTableWord 64 0x3F000000_60000000 = some (.dcrLoad 0 0x3F000000) ∧
    decodeTableWord 32 0x24000001 = some (.fircProc 0 [(0, 0)]) ∧
    decodeTableWord 32 0xC0000000 = none := by decide +kernel

/-! One step of each command. -/

namespace Sys2Proof.Tests

/-- The reset state with `FRAG_SIZE` 2 and the reference functions of R13 to R15, as the vectors use them. -/
def small : State := { State.reset with params := { Params.default with fragSize := 2, numerics := .reference } }

/-- The state after a command. -/
def after (s : State) (i : Instr) : State :=
  match exec i s with
  | .next t => t
  | _ => s

/-- 1.0, 2.0, 3.0 and 4.0. -/
def f1234 : List F32 := [0x3F800000, 0x40000000, 0x40400000, 0x40800000]

/-- The array c3 of the vectors: 0.25, 0.5, 0.25. -/
def c3 : List F32 := [0x3E800000, 0x3F000000, 0x3E800000]

/-- The array cA of the vectors: 47 taps, 0.5 in the middle, 0.25 beside it. -/
def cA : List F32 := List.replicate 22 0 ++ c3 ++ List.replicate 22 0

end Sys2Proof.Tests

open Sys2Proof.Tests

theorem test_nop : after small .sysNop = { small with rsp := [[0]] } := by decide +kernel

/-- V-SYS-2. -/
theorem test_rdreg : (after small (.sysRdreg 0 0 0x13)).rsp = [[0, 5]] := by decide +kernel

/-- V-SYS-11. -/
theorem test_rdreg_unlisted : (after small (.sysRdreg 0 0 0x99)).rsp = [[3]] := by decide +kernel

/-- V-SYS-3. -/
theorem test_wrreg : (after small (.sysWrreg 0 0 0x14 2)).sys.variant[3] = .vector128 ∧
    (after small (.sysWrreg 0 0 0x14 2)).rsp = [[0]] := by decide +kernel

/-- V-SYS-5: `ERRFLAGS` bit 3, `LASTERR` with `CODE` 3, `FUNC` 2. -/
theorem test_wrreg_reserved_code : (after small (.sysWrreg 0 0 0x14 6)).sys =
    ⟨0x8, 0x00002003, Vector.replicate 9 .uncalibrated⟩ := by decide +kernel

/-- V-SYS-7. -/
theorem test_reset : after (after small (.sysWrreg 0 0 0x14 6)) .sysReset = { small with rsp := [[3], [0]] } := by
  decide +kernel

/-- The example of R160: `FIRR.LOAD 1, d=2, {1, 2, 3}`. -/
theorem test_firrLoad : ((after small (.firrLoad 1 2 (f1234.take 3))).firr.at 1) =
    ⟨true, .scalar, 2, [0x3F800000, 0x40000000, 0x40400000], [0, 0]⟩ := by decide +kernel

/-- V-FIR-10, an even length, and V-FIR-11, D = 0. -/
theorem test_firrLoad_errors : (after small (.firrLoad 0 1 (f1234.take 2))).rsp = [[2]] ∧
    (after small (.firrLoad 0 0 (f1234.take 3))).rsp = [[3]] := by decide +kernel

/-- The second block of V-FIR-2: history (1, 2), block (3, 4). -/
theorem test_firrProc :
    let t := after (small.putFirr 0 ⟨true, .scalar, 1, f1234.take 3, f1234.take 2⟩) (.firrProc 0 (f1234.drop 2))
    t.rsp = [[0x00000200, 0x41200000, 0x41800000]] ∧ (t.firr.at 0).resid = f1234.drop 2 := by decide +kernel

/-- V-FIR-7 with two lanes: (1e8 - 1e8) + 1. -/
theorem test_firrProc_lanes :
    (after (small.putFirr 0 ⟨true, .vector64, 1, List.replicate 3 fone, [0, 0]⟩)
      (.firrProc 0 [0x4CBEBC20, 0x3F800000, 0xCCBEBC20, 0])).rsp =
    [[0x00000400, 0x4CBEBC20, 0x4CBEBC20, 0x3F800000, 0xCCBEBC20]] := by decide +kernel

/-- V-FIR-17. -/
theorem test_firrClr : ((after (small.putFirr 0 ⟨true, .scalar, 1, f1234.take 3, f1234.drop 2⟩) (.firrClr 0)).firr.at 0) =
    ⟨true, .scalar, 1, f1234.take 3, [0, 0]⟩ := by decide +kernel

theorem test_fircLoad : ((after small (.fircLoad 0 1 (f1234.take 3))).firc.at 0) =
    ⟨true, .scalar, 1, [0x3F800000, 0x40000000, 0x40400000], [(0, 0), (0, 0)]⟩ := by decide +kernel

/-- V-FIR-16: (1, 10), (2, 20) through (1, 2, 3). -/
theorem test_fircProc :
    let x : List Cplx := [(0x3F800000, 0x41200000), (0x40000000, 0x41A00000)]
    let t := after (small.putFirc 0 ⟨true, .scalar, 1, f1234.take 3, [(0, 0), (0, 0)]⟩) (.fircProc 0 x)
    t.rsp = [[0x00000200, 0x3F800000, 0x41200000, 0x40800000, 0x42200000]] ∧ (t.firc.at 0).resid = x := by
  decide +kernel

theorem test_fircClr :
    ((after (small.putFirc 0 ⟨true, .scalar, 1, f1234.take 3, [(1, 2), (3, 4)]⟩) (.fircClr 0)).firc.at 0).resid =
      [(0, 0), (0, 0)] := by decide +kernel

/-- V-HB-12, -0.0 is a zero, and V-HB-6, the mirror symmetry fails. -/
theorem test_hbrLoad :
    ((after small (.hbrLoad 0 [0x3DCCCCCD, 0x80000000, 0x3E4CCCCD, 0x3F000000, 0x3E4CCCCD, 0, 0x3DCCCCCD])).hbr.at
      0).resid = List.replicate 6 0 ∧
    (after small (.hbrLoad 0 [0x3E800000, 0x3F000000, 0x3E99999A])).rsp = [[2]] := by decide +kernel

/-- V-HB-1. -/
theorem test_hbrProc :
    let t := after (small.putHbr 0 ⟨true, .scalar, c3, [0, 0]⟩) (.hbrProc 0 (List.replicate 4 fone))
    t.rsp = [[0x00000200, 0x3E800000, 0x3F800000]] ∧ (t.hbr.at 0).resid = [0x3F800000, 0x3F800000] := by decide +kernel

theorem test_hbrClr : ((after (small.putHbr 0 ⟨true, .scalar, c3, f1234.take 2⟩) (.hbrClr 0)).hbr.at 0) =
    ⟨true, .scalar, c3, [0, 0]⟩ := by decide +kernel

theorem test_hbcLoad : ((after small (.hbcLoad 2 c3)).hbc.at 2) = ⟨true, .scalar, c3, [(0, 0), (0, 0)]⟩ := by
  decide +kernel

/-- V-HB-13. -/
theorem test_hbcProc :
    (after (small.putHbc 2 ⟨true, .scalar, c3, [(0, 0), (0, 0)]⟩)
      (.hbcProc 2 (List.replicate 4 (0x3F800000, 0x41200000)))).rsp =
    [[0x00000200, 0x3E800000, 0x40200000, 0x3F800000, 0x41200000]] := by decide +kernel

theorem test_hbcClr : ((after (small.putHbc 2 ⟨true, .scalar, c3, [(1, 2), (3, 4)]⟩) (.hbcClr 2)).hbc.at 2).resid =
    [(0, 0), (0, 0)] := by decide +kernel

/-- The load of V-HIL-1, and V-HIL-4, 45 words. -/
theorem test_hilLoad : ((after small (.hilLoad 1 cA)).hil.at 1) =
      ⟨true, .scalar, false, cA, List.replicate 11 0, List.replicate 23 0⟩ ∧
    (after small (.hilLoad 0 (cA.take 45))).rsp = [[2]] := by decide +kernel

/-- R221, R224: from an odd parity the pair (1, 2) enters as (-1, 2); I comes out of the delay, Q from the two taps
beside the centre: 0.25 * (0 + 0) * 2. -/
theorem test_hilProc :
    let t := after (small.putHil 1 ⟨true, .scalar, true, cA, fone :: List.replicate 10 0, List.replicate 23 0⟩)
      (.hilProc 1 [(0x3F800000, 0x40000000)])
    t.rsp = [[0x00000100, 0x3F000000, 0x00000000]] ∧ (t.hil.at 1).par = false ∧
      (t.hil.at 1).residI = List.replicate 10 0 ++ [0xBF800000] ∧
      (t.hil.at 1).residQ = List.replicate 22 0 ++ [0x40000000] := by decide +kernel

/-- V-HIL-6. -/
theorem test_hilClr :
    ((after (small.putHil 1 ⟨true, .scalar, true, cA, List.replicate 11 1, List.replicate 23 1⟩) (.hilClr 1)).hil.at 1) =
      ⟨true, .scalar, false, cA, List.replicate 11 0, List.replicate 23 0⟩ := by decide +kernel

theorem test_dcrLoad : ((after small (.dcrLoad 0 0x3F000000)).dcr.at 0) = ⟨true, .scalar, 0x3F000000, 0⟩ := by
  decide +kernel

/-- V-DCR-1. -/
theorem test_dcrProc :
    let t := after (small.putDcr 0 ⟨true, .scalar, 0x3F000000, 0⟩) (.dcrProc 0 (List.replicate 4 fone))
    t.rsp = [[0x00000400, 0x3F800000, 0x3F000000, 0x3E800000, 0x3E000000]] ∧ (t.dcr.at 0).avg = 0x3F700000 := by
  decide +kernel

theorem test_dcrClr : ((after (small.putDcr 0 ⟨true, .scalar, 0x3F000000, 0x3F700000⟩) (.dcrClr 0)).dcr.at 0) =
    ⟨true, .scalar, 0x3F000000, 0⟩ := by decide +kernel

theorem test_ncoLoad : ((after small (.ncoLoad 0 0x40000000)).nco.at 0) = ⟨true, .scalar, 0x40000000, 0⟩ := by
  decide +kernel

/-- V-NCO-2: an eighth of a turn per sample. -/
theorem test_ncoGen :
    let t := after (small.putNco 0 ⟨true, .scalar, 0x20000000, 0⟩) (.ncoGen 0 3)
    t.rsp = [[0x300, 0x3F800000, 0x00000000, 0x3F3504F3, 0x3F3504F3, 0x00000000, 0x3F800000]] ∧
      (t.nco.at 0).phase = 0x60000000 := by decide +kernel

theorem test_ncoClr : ((after (small.putNco 0 ⟨true, .scalar, 0x20000000, 0x60000000⟩) (.ncoClr 0)).nco.at 0) =
    ⟨true, .scalar, 0x20000000, 0⟩ := by decide +kernel

theorem test_mixLoad : ((after small (.mixLoad 3)).mix.at 3) = ⟨true, .scalar⟩ := by decide +kernel

/-- P2, pc 3: a constant mixed up by a quarter of the sample rate. -/
theorem test_mixProc :
    let t := after ((small.putNco 0 ⟨true, .scalar, 0x40000000, 0⟩).putMix 0 ⟨true, .scalar⟩)
      (.mixProc 0 (List.replicate 4 (0x3F800000, 0)))
    t.rsp = [[0x00000400, 0x3F800000, 0, 0, 0x3F800000, 0xBF800000, 0, 0, 0xBF800000]] ∧ (t.nco.at 0).phase = 0 := by
  decide +kernel

/-- V-MIX-3: the oscillator of that index was never loaded. -/
theorem test_mixProc_no_oscillator :
    (after (small.putMix 1 ⟨true, .scalar⟩) (.mixProc 1 [(0x3F800000, 0)])).rsp = [[5]] := by decide +kernel

theorem test_fmdLoad : ((after small (.fmdLoad 0)).fmd.at 0) = ⟨true, .scalar, 0, 0⟩ := by decide +kernel

/-- V-FMD-2. -/
theorem test_fmdProc :
    let t := after (small.putFmd 0 ⟨true, .scalar, 0, 0⟩)
      (.fmdProc 0 [(0x3F800000, 0), (0x3F800000, 0), (0, 0xBF800000), (0x40000000, 0x40000000)])
    t.rsp = [[0x400, 0, 0, 0xBFC90FDB, 0x4016CBE4]] ∧ t.fmd.at 0 = ⟨true, .scalar, 0x40000000, 0x40000000⟩ := by
  decide +kernel

theorem test_fmdClr : ((after (small.putFmd 0 ⟨true, .scalar, 1, 2⟩) (.fmdClr 0)).fmd.at 0) = ⟨true, .scalar, 0, 0⟩ := by
  decide +kernel

/-- V-DBI-2, the opening. -/
theorem test_dbiOpen :
    let t := after small (.dbiOpen 0 8 0 0x22334455 0x11 [] [] [0x04000C00, 0x0FFF0000])
    (t.dbi.at 0).raw = [0x00, 0x0C, 0x00, 0x04, 0x00, 0x00, 0xFF, 0x0F] ∧ (t.dbi.at 0).ts = 0x1122334455 ∧
      (t.dbi.at 0).nfrag = 1 ∧ t.rsp = [[0]] := by decide +kernel

/-- V-DBI-5, not a whole fragment, and V-DBI-7, no Hilbert transformer of that index. -/
theorem test_dbiOpen_errors :
    (after small (.dbiOpen 0 4 0 0 0 [] [] [0])).rsp = [[3]] ∧
    (after small (.dbiOpen 0 0 0x00170B01 0 0 (List.replicate 11 0) (List.replicate 23 0) [])).rsp = [[5]] := by
  decide +kernel

/-- V-DBI-3: packed words. -/
theorem test_dbiNext :
    let t := after (small.putDbi 0 ⟨true, false, true, false, 5, [0x00, 0x0C, 0x40, 0x00, 0xF0, 0xFF], 1, 0, [], []⟩)
      (.dbiNext 0)
    t.rsp = [[0x00000200, 5, 0, 0x3F000000, 0xBF000000, 0xBF800000, 0x3F7FE000]] ∧ (t.dbi.at 0).pos = 1 ∧
      (after t (.dbiNext 0)).rsp = t.rsp ++ [[7]] := by decide +kernel

theorem test_dbiClr :
    ((after (small.putDbi 0 ⟨true, false, true, false, 5, [0, 0, 0, 0, 0, 0], 1, 1, [], []⟩) (.dbiClr 0)).dbi.at 0) =
      Dbi.reset := by decide +kernel

/-- R367: `INFO` is `LEN_I` + `LEN_Q`. -/
theorem test_dbiResid :
    (after (small.putDbi 0 ⟨true, true, false, false, 5, [], 0, 0, List.replicate 11 1, List.replicate 23 2⟩)
      (.dbiResid 0)).rsp = [0x00002200 :: (List.replicate 11 1 ++ List.replicate 23 2)] := by decide +kernel

namespace Sys2Proof.Tests

/-- Channel 0 of program P3 with the given queue and flag: `CAPACITY` 2, `RECOVERY` 1, `OUTBLK` 2. -/
def chan (queue : List Block) (ovf : Bool) (drops : Word) : Cop :=
  ⟨true, 2, 1, 2, queue, ovf, drops, 0, fone, 0, 0, [], 0, none⟩

/-- Block 1 of program P3. -/
def b100 : Block := ⟨100, [(0x3F800000, 0x40000000), (0x40400000, 0x40800000)]⟩

/-- Block 2 of program P3. -/
def b200 : Block := ⟨200, [(0x40A00000, 0x40C00000)]⟩

end Sys2Proof.Tests

/-- P3, pc 0, and V-COP-3. -/
theorem test_copOpen : ((after small (.copOpen 0 2 1 2)).cop.at 0) = chan [] false 0 ∧
    (after small (.copOpen 1 2 3 2)).rsp = [[3]] := by decide +kernel

/-- P3, pc 2, accepted. -/
theorem test_copSubmit : ((after (small.putCop 0 (chan [b100] false 0)) (.copSubmit 0 200 0 b200.data)).cop.at 0) =
    chan [b100, b200] false 0 := by decide +kernel

/-- P3, pc 3 and pc 4: refused, with one event. -/
theorem test_copSubmit_refused :
    let t := after (small.putCop 0 (chan [b100, b200] false 0)) (.copSubmit 0 300 0 b200.data)
    t.cop.at 0 = chan [b100, b200] true 1 ∧ t.notif = [0x00000001] ∧ t.rsp = [[0]] ∧
      (after t (.copSubmit 0 400 0 b200.data)).notif = [0x00000001] := by decide +kernel

/-- P3, pc 5: the oldest block, gain 1.0, one output block; occupancy 1 is not below `RECOVERY`. -/
theorem test_copDrain :
    let t := after (small.putCop 0 (chan [b100, b200] true 2)) (.copDrain 0 1)
    (finishDrain t 0).rsp = [[0x00000100, 1, 0x64, 0, 0x3F800000, 0x40000000, 0x40400000, 0x40800000]] ∧
      (finishDrain t 0).notif = [0x00000003] ∧ ((finishDrain t 0).cop.at 0).queue = [b200] := by decide +kernel

/-- P3, pc 6: the queue empties below `RECOVERY`, the sample stays in `ASM` under its block's tag. -/
theorem test_copDrain_clears :
    let t := finishDrain (after (small.putCop 0 (chan [b200] true 2)) (.copDrain 0 5)) 0
    t.rsp = [[0x00000100, 0]] ∧ t.notif = [0x00000002] ∧ (t.cop.at 0).asm = b200.data ∧ (t.cop.at 0).asmTs = 200 := by
  decide +kernel

/-- V-COP-10. -/
theorem test_copDetach :
    let t := after (small.putCop 0 (chan [b100, b200] true 1)) (.copDetach 0)
    t.cop.at 0 = Cop.reset ∧ t.notif = [] ∧ (after t (.copSubmit 0 1 0 [])).rsp = [[0], [5]] := by decide +kernel

/-- V-COP-9: a faulting block is skipped whole, counted and logged. -/
theorem test_block_fault :
    let nan : Block := ⟨1, [(0x7FC00000, 0)]⟩
    let s := { small with params := { small.params with blockFault := .listed [nan] } }
    let t := finishDrain (s.putCop 0 { chan [] false 0 with outblk := 1, inflight := some [nan, b200] }) 0
    t.rsp = [[0x200, 1, 200, 0, 0x40A00000, 0x40C00000]] ∧ (t.cop.at 0).blkerr = 1 ∧ t.sys.errflags = 0x40 ∧
      t.sys.lasterr = 0x00002B06 := by decide +kernel

/-- A packet placed where the step takes its next command is decoded and run. -/
theorem test_step : (State.reset.withFetchWord 32 0x04000013).steps 1 = { State.reset with rsp := [[0, 5]] } := by
  decide +kernel

/-! Witnesses: for every statement with hypotheses, values that meet all of them, clause by clause, at the ends of
their ranges. -/

namespace Sys2Proof.Tests

/-- The reset state with `FRAG_SIZE` 2 and `MAX_BLOCK` 12. -/
def base : State := { State.reset with params := { Params.default with fragSize := 2, maxBlock := 12 } }

/-- A machine at work: instance 0 of every kind constructed or open, iterator 1 on the real-sampled path with DC
removal, channel 0 full and overflowing, channel 1 with a drain between its phases. -/
def full : State :=
  (((((((((((((base.putFirr 0 ⟨true, .vector64, 3, c3, [0, 0]⟩).putFirc 0 ⟨true, .scalar, 1, c3, [(0, 0), (0, 0)]⟩).putHbr 0
    ⟨true, .vector64, c3, [0, 0]⟩).putHbc 0 ⟨true, .scalar, c3, [(0, 0), (0, 0)]⟩).putHil 0
    ⟨true, .vector128, true, cA, List.replicate 11 0, List.replicate 23 0⟩).putHil 1
    ⟨true, .scalar, false, cA, List.replicate 11 0, List.replicate 23 0⟩).putDcr 0
    ⟨true, .vector128, 0x3F000000, 0⟩).putDcr 1 ⟨true, .scalar, 0x3F000000, 0⟩).putNco 0
    ⟨true, .scalar, 0x40000000, 0⟩).putMix 0 ⟨true, .vector128⟩).putFmd 0 ⟨true, .scalar, 0, 0⟩).putDbi 0
    ⟨true, false, false, false, 5, [0, 1, 2, 3, 4, 5, 6, 7], 1, 0, [], []⟩).putDbi 1
    ⟨true, true, true, true, 5, [0, 1, 2, 3, 4, 5], 1, 0, List.replicate 11 0, List.replicate 23 0⟩)
  |>.putCop 0 (chan [b100, b200] true 1) |>.putCop 1 { chan [b200] false 0 with inflight := some [b100] }

end Sys2Proof.Tests

/-- The premise of `StepKeepsInvariant`, `OverlapSaveChunking` and `IteratorNextNative`, on a machine at work. -/
theorem test_witness_inv : full.Inv where
  params := by decide +kernel
  sys := by decide +kernel
  firr := by decide +kernel
  firc := by decide +kernel
  hbr := by decide +kernel
  hbc := by decide +kernel
  hil := by decide +kernel
  dcr := by decide +kernel
  nco := by decide +kernel
  mix := by decide +kernel
  fmd := by decide +kernel
  dbi := by decide +kernel
  cop := by decide +kernel
  pastEnd := by decide +kernel

theorem test_witness_decodeEncode :
    Instr.WellFormed (.dbiOpen 15 5 0x00170B01 1 2 (List.replicate 11 3) (List.replicate 23 4) [5, 6]) = true ∧
    Instr.WellFormed (.copSubmit 15 0 0 []) = true := by decide +kernel

theorem test_witness_encodeDecode : decode ⟨0xBBFFFFFF, []⟩ = .ok (.copDrain 15 0x3FFFFF) ∧
    decode ⟨0x0803FFFF &&& 0xFFC00FFF, [1]⟩ = .ok (.sysWrreg 0 15 255 1) := by decide +kernel

/-- One header that selects a row, with the right and with a wrong count; one that selects none. -/
theorem test_witness_tableDecides :
    (∃ r ∈ opRows, r.selects 0x14000002 = true ∧ [1, 2].length = bodyWords 0x14000002 1 ∧
      [1].length ≠ bodyWords 0x14000002 1) ∧
    (∀ r ∈ opRows, r.selects 0xC0000000 = false) := by decide +kernel

/-- A packet alone, two packets of one instance, a drain between its phases. -/
theorem test_witness_stepRuns :
    choices { base with cmd := [⟨0x04000013, []⟩] } = [.issue 0] ∧ decode ⟨0x04000013, []⟩ = .ok (.sysRdreg 0 0 0x13) ∧
    choices { base with cmd := [⟨0x10001001, [0]⟩, ⟨0x14000000, []⟩] } = [.issue 0] ∧ drainingChannels base = [] ∧
    choices full = [.finish 1] := by decide +kernel

theorem test_witness_stepRejects : decode ⟨0x0C000001, []⟩ = .error (.illegalHeader 0x0C000001) ∧
    decode ⟨0x14000002, [1]⟩ = .error (.wrongCount 0x14000002) ∧
    drainingChannels { base with cmd := [⟨0x0C000001, []⟩] } = [] := by decide +kernel

theorem test_witness_stepTakes : base.cmd = [] ∧ drainingChannels base = [] ∧
    ({ base with cmd := [⟨0, []⟩] } : State).cmd ≠ [] ∧ drainingChannels full ≠ [] := by decide +kernel

/-- Kinds 1 and 10; `SUBMIT` with `SUBMIT`; writes of `GAIN` and `FINC` with `DRAIN`, `DETACH` and each other; the system
unit's `NOP`, `RESET` and a register access; what the drain of channel 1 of `full` holds up. -/
theorem test_witness_sameInstance :
    (SameTarget 0x10001001 0x14000000 ∧ SameTarget 0xA4000000 0xA8000000 ∧ SameTarget 0xB4000000 0xB4000001) ∧
    (SameTarget 0xB0000000 0xB8000000 ∧ SameTarget 0xB8000000 0x08000B04 ∧ SameTarget 0x08000B05 0xBC000000 ∧
      SameTarget 0x08000B04 0x04000B05) ∧
    (SameTarget 0x00000000 0x0C000000 ∧ SameTarget 0x0C000000 0x04000013) ∧
    (WaitsForDrain full 0xB8400001 ∧ WaitsForDrain full 0x08400B04 ∧ WaitsForDrain full 0x0C000000) :=
  ⟨by decide +kernel, by decide +kernel, by decide +kernel,
    ⟨1, by decide +kernel⟩, ⟨1, by decide +kernel⟩, ⟨1, by decide +kernel⟩⟩

/-- `MIX` and `NCO`, a register access of `NCO` among them; `DBI` and `HIL.LOAD`; `DBI.OPEN` with `DCEN`, an open iterator
with `DCEN`, one that a pending `OPEN` gives it, and `DCR`. -/
theorem test_witness_sharedPairs :
    let s := { base with cmd := [⟨0xA0000008, [0x00170B05]⟩, ⟨0xA4000000, []⟩] }
    SharedPair base 0 ⟨0x84400001, []⟩ 1 ⟨0x74400001, []⟩ ∧ SharedPair base 0 ⟨0x04400702, []⟩ 1 ⟨0x84400001, []⟩ ∧
    SharedPair base 0 ⟨0xA4400000, []⟩ 1 ⟨0x5040002F, []⟩ ∧ SharedPair base 0 ⟨0x5040002F, []⟩ 1 ⟨0xA8400000, []⟩ ∧
    SharedPair base 0 ⟨0xA0400000, [0x00170B05]⟩ 1 ⟨0x64400001, []⟩ ∧
    SharedPair full 0 ⟨0x64400001, []⟩ 1 ⟨0xA4400000, []⟩ ∧ SharedPair s 1 ⟨0xA4000000, []⟩ 2 ⟨0x64000001, []⟩ := by
  have own : DcenFor base 0 ⟨0xA0400000, [0x00170B05]⟩ := by
    rw [DcenFor, if_pos (by decide)]
    decide
  have iter : DcenFor full 1 ⟨0xA4400000, []⟩ := by
    rw [DcenFor, if_neg (by decide)]
    exact .inl (by decide +kernel)
  have open_ : DcenFor { base with cmd := [⟨0xA0000008, [0x00170B05]⟩, ⟨0xA4000000, []⟩] } 1 ⟨0xA4000000, []⟩ := by
    rw [DcenFor, if_neg (by decide)]
    exact .inr ⟨0, _, by decide, rfl, by decide +kernel⟩
  exact ⟨⟨by decide, .inl (by decide)⟩, ⟨by decide, .inr (.inl (by decide))⟩,
    ⟨by decide, .inr (.inr (.inl (by decide)))⟩, ⟨by decide, .inr (.inr (.inr (.inl (by decide))))⟩,
    ⟨by decide, .inr (.inr (.inr (.inr (.inl ⟨by decide, by decide, own⟩))))⟩,
    ⟨by decide, .inr (.inr (.inr (.inr (.inr ⟨by decide, by decide, iter⟩))))⟩,
    ⟨by decide, .inr (.inr (.inr (.inr (.inl ⟨by decide, by decide, open_⟩))))⟩⟩

/-- Packets that share nothing with one before them, on a machine whose channel 1 is draining: two demodulators, `DBI`
and the filter of its index, two channels on the same side, the two sides of one channel, `DBI` without `DCEN` and `DCR`,
an illegal kind. -/
theorem test_witness_free :
    (¬WaitsForDrain full 0x94000001 ∧ ¬WaitsForDrain full 0xA4000000 ∧ ¬WaitsForDrain full 0xB8000000 ∧
      ¬WaitsForDrain full 0xB4400000) ∧
    (¬SameTarget 0x94400001 0x94000001 ∧ ¬SameTarget 0x14000001 0xA4000000 ∧ ¬SameTarget 0xB8800000 0xB8000000) ∧
    (¬SameTarget 0xB8400000 0xB4400000 ∧ ¬SameTarget 0xA4000000 0x64000001 ∧ ¬SameTarget 0x00000000 0xC0000000) ∧
    (¬SharedPair full 0 ⟨0x14000001, []⟩ 1 ⟨0xA4000000, []⟩ ∧
      ¬SharedPair full 0 ⟨0xA4000000, []⟩ 1 ⟨0x64000001, []⟩) ∧
    (full.cop.at 1).inflight.isSome = true := by
  have one : ∀ c : Inst, (full.cop.at c).inflight.isSome = true → c = 1 := by decide +kernel
  have off : (full.dbi.at (instOf 0xA4000000)).dcen = false := by decide +kernel
  have dcen : ¬DcenFor full 0 ⟨0xA4000000, []⟩ := by
    rw [DcenFor, if_neg (by decide), off]
    rintro (h | ⟨m, o, h, -⟩)
    · exact Bool.noConfusion h
    · exact absurd h (by simp)
  have waits : ∀ h : Word, ¬ConsumerSide 1 h → ¬(kindOf h = 0#4 ∧ funcOf h = 3#2) → ¬WaitsForDrain full h := by
    rintro h n₁ n₂ ⟨c, hc, hw⟩
    obtain rfl := one c hc
    exact hw.elim n₁ n₂
  refine ⟨⟨?_, ?_, ?_, ?_⟩, by decide +kernel, by decide +kernel, ⟨?_, ?_⟩, by decide +kernel⟩
  iterate 4 exact waits _ (by decide +kernel) (by decide +kernel)
  all_goals
    rintro ⟨-, h | h | h | h | h | h⟩
    all_goals first
      | exact absurd h.1 (by decide +kernel)
      | exact absurd h.2.1 (by decide +kernel)
      | exact dcen h.2.2

namespace Sys2Proof.Tests

/-- The state after a packet is run. -/
def ran (s : State) (p : Packet) : State :=
  match runPacket s p with
  | .next t => t
  | _ => s

end Sys2Proof.Tests

/-- Status 1 (a block that is no multiple of 6), status 4, and status 7 (a fragment sequence at its end). -/
theorem test_witness_raise :
    (runPacket full ⟨0x14000001, [0]⟩ = .next (ran full ⟨0x14000001, [0]⟩) ∧
      runPacket full ⟨0xC0000000, []⟩ = .next (ran full ⟨0xC0000000, []⟩) ∧
      runPacket (ran full ⟨0xA4000000, []⟩) ⟨0xA4000000, []⟩ =
        .next (ran (ran full ⟨0xA4000000, []⟩) ⟨0xA4000000, []⟩)) ∧
    (ran full ⟨0x14000001, [0]⟩).rsp = full.rsp ++ [[1]] ∧ (ran full ⟨0xC0000000, []⟩).rsp = full.rsp ++ [[4]] ∧
    (ran (ran full ⟨0xA4000000, []⟩) ⟨0xA4000000, []⟩).rsp = (ran full ⟨0xA4000000, []⟩).rsp ++ [[7]] :=
  ⟨⟨rfl, rfl, rfl⟩, by decide +kernel⟩

/-- A bit cleared by a write of 1 and by reset, a bit set by an error, a block that faults. -/
theorem test_witness_sticky :
    let s := { base with sys := { base.sys with errflags := 0x82 } }
    (runPacket s ⟨0x08000002, [0x80]⟩ = .next (ran s ⟨0x08000002, [0x80]⟩) ∧
      runPacket s ⟨0x0C000000, []⟩ = .next (ran s ⟨0x0C000000, []⟩) ∧
      runPacket s ⟨0xC0000000, []⟩ = .next (ran s ⟨0xC0000000, []⟩)) ∧
    s.sys.errflags.getLsbD 7 = true ∧ (ran s ⟨0x08000002, [0x80]⟩).sys.errflags.getLsbD 7 = false ∧
    (ran s ⟨0x0C000000, []⟩).sys.errflags.getLsbD 1 = false ∧ s.sys.errflags.getLsbD 4 = false ∧
    (ran s ⟨0xC0000000, []⟩).sys.errflags.getLsbD 4 = true ∧ (ran s ⟨0xC0000000, []⟩).rsp = s.rsp ++ [[4]] :=
  ⟨⟨rfl, rfl, rfl⟩, by decide +kernel⟩

theorem test_witness_untouched :
    exec (.mixProc 0 (List.replicate 4 (1, 2))) full = .next (after full (.mixProc 0 (List.replicate 4 (1, 2)))) ∧
    (Kind.mix, (0 : Inst)) ∉ writes (.mixProc 0 (List.replicate 4 (1, 2))) ∧ (Kind.cop, (1 : Inst)) ≠ (.cop, 0) :=
  ⟨rfl, by decide, by decide⟩

/-- Two states that differ in `FIRR[3]` and in what was emitted. -/
theorem test_witness_noInfluence :
    let s := { full.putFirr 3 ⟨true, .scalar, 1, c3, [1, 2]⟩ with notif := [1] }
    s ≠ full ∧ s.params = full.params ∧ s.sys = full.sys ∧
      (∀ x ∈ writes (.dbiNext 1) ++ readsToo (.dbiNext 1), SameSlot full s x.1 x.2) ∧
      exec (.dbiNext 1) full = .next (after full (.dbiNext 1)) ∧ exec (.dbiNext 1) s = .next (after s (.dbiNext 1)) := by
  refine ⟨by decide +kernel, rfl, rfl, ?_, rfl, rfl⟩
  intro x hx
  simp only [writes, readsToo, List.cons_append, List.nil_append, List.mem_cons, List.not_mem_nil, or_false] at hx
  obtain rfl | rfl | rfl | rfl := hx <;> rfl

/-- The first refusal on a full channel; a drain that clears the flag. -/
theorem test_witness_notifications :
    let s := base.putCop 0 (chan [b100, b200] false 0)
    let u := base.putCop 0 (chan [b100, b200] true 1)
    (exec (.copSubmit 0 0 0 []) s = .next (after s (.copSubmit 0 0 0 [])) ∧
      exec (.copDrain 0 2) u = .next (after u (.copDrain 0 2))) ∧
    (s.cop.at 0).ovf = false ∧ ((after s (.copSubmit 0 0 0 [])).cop.at 0).ovf = true ∧
    (u.cop.at 0).ovf = true ∧ ((after u (.copDrain 0 2)).cop.at 0).ovf = false :=
  ⟨⟨rfl, rfl⟩, by decide +kernel⟩

/-- The first index past the end, and the last one of the field. -/
theorem test_witness_outOfRange :
    (Instr.WellFormed (.firrClr 4) = true ∧ kindOf (encode (.firrClr 4)).header = Kind.code .firr ∧
      instOf (encode (.firrClr 4)).header = 4 ∧ base.params.nInst .firr ≤ (4 : Inst).toNat) ∧
    (kindOf (encode (.copDetach 15)).header = Kind.code .cop ∧ instOf (encode (.copDetach 15)).header = 15 ∧
      base.params.nInst .cop ≤ (15 : Inst).toNat) := by decide +kernel

theorem test_witness_reset : readReg State.reset .hil 15 3 = some 0x0000170B ∧
    readReg State.reset .cop 0 4 = some 0 ∧ full.params.Ok ∧
    -- A machine at work with a packet pending: both that and the drain of channel 1 are lost without response.
    (full.send ⟨0x14000000, []⟩).hardReset = base := by decide +kernel

/-- The step whose result `StepKeepsInvariant` speaks of. -/
theorem test_witness_step : step full = .next (finishDrain full 1) := by
  have h : choices full = [.finish 1] := by decide +kernel
  simp only [step, advance, h, takeChoice]

/-! Arithmetic: 2^24 + 1 and (1 + 2^-23) * 1.5 are ties; 1 - 1 is an exact zero; the largest value doubled overflows. -/

theorem test_witness_sum :
    (isFinite 0x4B800000 = true ∧ isFinite 0x3F800000 = true ∧ isFinite (fadd 0x4B800000 0x3F800000) = true ∧
      isFinite 0x4B800001 = true) ∧
    (units 0x4B800000 + units 0x3F800000 - units (fadd 0x4B800000 0x3F800000)).natAbs =
      (units 0x4B800000 + units 0x3F800000 - units 0x4B800001).natAbs ∧
    units 0x4B800001 ≠ units (fadd 0x4B800000 0x3F800000) ∧ units 0x3F800000 + units 0xBF800000 = 0 := by
  decide +kernel

theorem test_witness_product :
    (isFinite 0x3F800001 = true ∧ isFinite 0x3FC00000 = true ∧ isFinite (fmul 0x3F800001 0x3FC00000) = true ∧
      isFinite 0x3FC00001 = true) ∧
    (units 0x3F800001 * units 0x3FC00000 - units (fmul 0x3F800001 0x3FC00000) * 2 ^ 149).natAbs =
      (units 0x3F800001 * units 0x3FC00000 - units 0x3FC00001 * 2 ^ 149).natAbs ∧
    units 0x3FC00001 ≠ units (fmul 0x3F800001 0x3FC00000) := by decide +kernel

theorem test_witness_special : isFinite (fadd 0x7F7FFFFF 0x7F7FFFFF) = false ∧
    isFinite (fadd 0x7F7FFFFF 0x73000000) = false ∧ isFinite (fadd 0x7F7FFFFF 0x72FFFFFF) = true ∧
    isNaN 0x7F800000 = false ∧ isNaN 0xFF800000 = false := by decide +kernel

/-- 2^64 times the largest value below 2^64 is the largest finite value; (1 + 2^-12) 2^64 times (2 - 2^-11) 2^63 is below the
midpoint and (1 + 2^-23) 2^64 times the same first value above it; 2^64 squared, of either sign. -/
theorem test_witness_special_product :
    (isFinite 0x5F800000 = true ∧ isFinite 0x5F7FFFFF = true ∧ fmul 0x5F800000 0x5F7FFFFF = 0x7F7FFFFF) ∧
    (isFinite 0x5F800800 = true ∧ isFinite 0x5F7FF000 = true ∧ isFinite (fmul 0x5F800800 0x5F7FF000) = true) ∧
    (isFinite 0x5F800001 = true ∧ fmul 0x5F800001 0x5F7FFFFF = 0x7F800000) ∧
    (fmul 0x5F800000 0x5F800000 = 0x7F800000 ∧ fmul 0xDF800000 0x5F800000 = 0xFF800000) := by decide +kernel

/-- Infinities with the largest finite value, the smallest and each other; equality of the zeros. -/
theorem test_witness_special_infinite :
    (isFinite 0x7F800000 = false ∧ isNaN (fadd 0x7F800000 0xFF7FFFFF) = false ∧
      isNaN (fadd 0xFF7FFFFF 0x7F800000) = false ∧ isNaN (fadd 0xFF800000 0xFF800000) = false) ∧
    (fmul 0xFF800000 0x80000001 = 0x7F800000 ∧ fmul 0x00000001 0xFF800000 = 0xFF800000) ∧
    isNaN (fsub 0x7F800000 0xFF800000) = false ∧ isNaN 0x7F800001 = true ∧
    (feq 0x00000000 0x80000000 = true ∧ isFinite 0x80000000 = true) := by decide +kernel

theorem test_witness_vectorSum : 2 ∈ [2, 4, 8, 16] ∧ 16 ∈ [2, 4, 8, 16] ∧ f1234 ≠ [] := by decide

theorem test_witness_accuracy : (1 : Rat) / 2 ^ 22 ≤ base.params.ncoEps ∧ (1 : Rat) / 2 ^ 22 ≤ base.params.atanEps ∧
    (isFinite 0x00000001 = true ∧ isFinite 0xFF7FFFFF = true ∧ ¬(isZero 0x00000001 = true ∧ isZero 0xFF7FFFFF = true) ∧
      ¬((0x00000001 : F32) = 0x80000000#32 ∧ signBit 0xFF7FFFFF = true)) := by decide +kernel

/-- x = +0.0 and the largest; x = -2^-149; y both signs with x = -0.0; a NaN; an infinity; two zeros. -/
theorem test_witness_anchors :
    (isFinite 0x00000000 = true ∧ signBit 0x00000000 = false ∧ isFinite 0x7F7FFFFF = true) ∧
    (isFinite 0x80000001 = true ∧ signBit 0x80000001 = true ∧ isZero 0x80000001 = false) ∧
    (isFinite 0xFF7FFFFF = true ∧ isZero 0xFF7FFFFF = false ∧ isZero 0x80000000 = true) ∧
    isNaN 0x7F800001 = true ∧ isFinite 0xFF800000 = false ∧ isZero 0x00000000 = true := by decide +kernel

theorem test_witness_deviceWords : 2 ^ 2 - 1 < 2 ^ 2 ∧ 2 ^ 16 - 1 < 2 ^ 16 ∧
    ∀ u ∈ [((4095, 0) : Nat × Nat), (0, 4095)], u.1 < 2 ^ 12 ∧ u.2 < 2 ^ 12 := by decide

/-! Construction: one tap and `MAX_TAPS` taps; half-band arrays of 3, 47 and `MAX_TAPS` taps. -/

namespace Sys2Proof.Tests

/-- The longest half-band array of the default parameters. -/
def c255 : List F32 := List.replicate 127 fzero ++ [0x3F000000] ++ List.replicate 127 fzero

end Sys2Proof.Tests

theorem test_witness_halfBandShape : HalfBandShape c3 ∧ HalfBandShape cA ∧ HalfBandShape c255 :=
  ⟨by decide +kernel, by decide +kernel, by decide +kernel⟩

theorem test_witness_filterLoad :
    ([fone].length % 2 = 1 ∧ c255.length % 2 = 1 ∧ c255.length ≤ base.params.maxTaps ∧ (1023 : BitVec 10) ≠ 0#10) ∧
    (c3.length % 4 = 3 ∧ c255.length % 4 = 3 ∧ cA.length = 47) ∧
    ((3 : Inst).toNat < base.params.nFirr ∧ (3 : Inst).toNat < base.params.nFirc ∧ (15 : Inst).toNat < base.params.nHbr ∧
      (15 : Inst).toNat < base.params.nHbc ∧ (3 : Inst).toNat < base.params.nHil) := by decide +kernel

/-- The last index of each kind; and a mixer past the last oscillator. -/
theorem test_witness_elementLoad :
    ((3 : Inst).toNat < base.params.nDcr ∧ (3 : Inst).toNat < base.params.nNco ∧ (3 : Inst).toNat < base.params.nMix ∧
      (3 : Inst).toNat < base.params.nFmd) ∧
    (let P := { base.params with nNco := 1 }
     (1 : Inst).toNat < P.nMix ∧ P.nNco ≤ (1 : Inst).toNat) := by decide +kernel

theorem test_witness_filterLoadErrors :
    (([] : List F32).length % 2 = 0 ∧ base.params.maxTaps < (List.replicate 257 fone).length) ∧
    ([fone, fone].length < 3 ∧ (List.replicate 5 fone).length % 4 ≠ 3 ∧ ¬HalfBandShape [fone, fone, fone] ∧
      [fone, fone, fone].length % 4 = 3) ∧
    (46 ≠ 47 ∧ ¬HalfBandShape (List.replicate 47 fone)) := by decide +kernel

/-! Processing: an empty block and the longest legal one of each unit. -/

theorem test_witness_proc :
    ((full.firr.at 0).constructed = true ∧ (full.firc.at 0).constructed = true ∧ (full.hbr.at 0).constructed = true ∧
      (full.hbc.at 0).constructed = true ∧ (full.hil.at 0).constructed = true ∧ (full.dcr.at 0).constructed = true ∧
      (full.fmd.at 0).constructed = true ∧ (full.nco.at 0).constructed = true ∧ (full.mix.at 0).constructed = true) ∧
    ((full.hbr.at 0).coef.length % 4 = 3 ∧ (full.hbc.at 0).coef.length % 4 = 3) ∧
    (∀ n ∈ [0, 12], LegalBlock full.params ((full.firr.at 0).decim.toNat * lanes (full.firr.at 0).ivar) n ∧
      LegalBlock full.params ((full.firc.at 0).decim.toNat * lanes (full.firc.at 0).ivar) n ∧
      LegalBlock full.params (2 * lanes (full.hbr.at 0).ivar) n ∧
      LegalBlock full.params (2 * lanes (full.hbc.at 0).ivar) n ∧ LegalBlock full.params (lanes (full.hil.at 0).ivar) n ∧
      LegalBlock full.params (lanes (full.dcr.at 0).ivar) n ∧ LegalBlock full.params (lanes (full.fmd.at 0).ivar) n ∧
      LegalBlock full.params (lanes (full.nco.at 0).ivar) n ∧ LegalBlock full.params (lanes (full.mix.at 0).ivar) n) ∧
    (∀ k ∈ [Kind.firr, .firc, .hbr, .hbc, .hil, .dcr, .nco, .mix, .fmd], (0 : Inst).toNat < full.params.nInst k) := by
  decide +kernel

/-- One sample past `MAX_BLOCK`, one sample short of the granularity, an instance never loaded. -/
theorem test_witness_procErrors :
    full.params.maxBlock < 13 ∧ 5 % ((full.firr.at 0).decim.toNat * lanes (full.firr.at 0).ivar) ≠ 0 ∧
    3 % (2 * lanes (full.hbr.at 0).ivar) ≠ 0 ∧ 3 % lanes (full.hil.at 0).ivar ≠ 0 ∧ 3 % lanes (full.mix.at 0).ivar ≠ 0 ∧
    (full.firr.at 3).constructed = false ∧ (full.hil.at 3).constructed = false ∧
    ((full.mix.at 0).constructed && (full.nco.at 3).constructed) = false := by decide +kernel

/-- `ClearKeepsTheConstruction`: constructed and not, both at an index that exists. -/
theorem test_witness_clear :
    (∀ k ∈ [Kind.firr, .firc, .hbr, .hbc, .hil, .dcr, .nco, .fmd], (3 : Inst).toNat < full.params.nInst k) ∧
    (full.firr.at 0).constructed = true ∧ (full.firr.at 3).constructed = false := by decide +kernel

/-- Two cuts of one input into legal blocks, for each unit of the two chunking statements. -/
theorem test_witness_chunking :
    let x : List F32 := [1, 2, 3, 4, 5, 6, 7, 8, 9, 10, 11, 12]
    let z : List Cplx := x.map fun w => (w, w)
    ([x.take 6, [], x.drop 6].flatten = [x].flatten ∧
      ∀ b ∈ [x.take 6, [], x.drop 6] ++ [x],
        LegalBlock full.params ((full.firr.at 0).decim.toNat * lanes (full.firr.at 0).ivar) b.length) ∧
    ([x.take 4, x.drop 4].flatten = [x].flatten ∧
      ∀ b ∈ [x.take 4, x.drop 4] ++ [x], LegalBlock full.params (2 * lanes (full.hbr.at 0).ivar) b.length ∧
        LegalBlock full.params (lanes (full.dcr.at 0).ivar) b.length) ∧
    ([z.take 4, z.drop 4].flatten = [z].flatten ∧
      ∀ b ∈ [z.take 4, z.drop 4] ++ [z],
        LegalBlock full.params ((full.firc.at 0).decim.toNat * lanes (full.firc.at 0).ivar) b.length ∧
        LegalBlock full.params (2 * lanes (full.hbc.at 0).ivar) b.length ∧
        LegalBlock full.params (lanes (full.hil.at 0).ivar) b.length ∧
        LegalBlock full.params (lanes (full.mix.at 0).ivar) b.length ∧
        LegalBlock full.params (lanes (full.fmd.at 0).ivar) b.length) ∧
    ((12 : BitVec 22).toNat = (5 : BitVec 22).toNat + (7 : BitVec 22).toNat ∧
      (12 : BitVec 22).toNat ≤ full.params.maxBlock ∧ (5 : BitVec 22).toNat % lanes (full.nco.at 0).ivar = 0) := by
  decide +kernel

/-! Registers. -/

theorem test_witness_read : ∀ k ∈ [Kind.sys, .firr, .hbr, .hil, .dcr, .nco, .mix, .fmd, .dbi, .cop],
    (0 : Inst).toNat < full.params.nInst k := by decide +kernel

theorem test_witness_write : (5 : Word) = BitVec.ofNat 32 (Variant.code .uncalibrated) ∧
    ((4 : Word) = BitVec.ofNat 32 (Variant.code .vector512) ∧ Variant.code .vector512 ≤ full.params.hwMaxVariant) ∧
    ((1 : Inst).toNat < full.params.nCop ∧ (full.cop.at 1).opened = true) := by decide +kernel

/-- `RKIND` 12; an instance past the end; a register not listed; a read-only one; codes 6 and past the hardware; a
channel that is not opened. -/
theorem test_witness_registerErrors :
    12 ≤ (12 : BitVec 4).toNat ∧ ((1 : BitVec 4) = Kind.code .firr ∧ full.params.nInst .firr ≤ (4 : Inst).toNat) ∧
    ((26 : BitVec 8).toNat ∉ [0, 1, 2, 3, 17, 18, 19, 20, 21, 22, 23, 24, 25]) ∧
    ((13 : BitVec 8).toNat ∉ [0, 1, 2, 3, 4, 5, 6, 7, 8, 9, 10, 11, 12]) ∧ ((6 : BitVec 8).toNat ∉ [4, 5]) ∧
    (5 < (6 : Word).toNat ∧ ({ full.params with hwMaxVariant := 3 } : Params).hwMaxVariant < (4 : Word).toNat) ∧
    ((3 : Inst).toNat < full.params.nCop ∧ (full.cop.at 3).opened = false) := by decide +kernel

/-! The device buffer iterator. -/

/-- A packed real-sampled buffer of one fragment with DC removal: 6 bytes, two of padding; and an empty native one. -/
theorem test_witness_opens :
    let flags : Word := 0x00170B07
    let ri : List F32 := List.replicate 11 0
    let rq : List F32 := List.replicate 23 0
    let raw : List Word := [0x03020100, 0x00000504]
    ((1 : Inst).toNat < full.params.nDbi ∧ flags.toNat / 8 % 32 = 0 ∧ flags.toNat / 2 ^ 24 = 0 ∧
      full.params.sampleBits = 12 ∧ flags.getLsbD 0 = true ∧ flags.getLsbD 1 = true ∧ flags.getLsbD 2 = true ∧
      ri.length = flags.toNat / 2 ^ 8 % 2 ^ 8 ∧ rq.length = flags.toNat / 2 ^ 16 % 2 ^ 8 ∧
      (6 : BitVec 22).toNat ≤ full.params.maxRaw ∧ (6 : BitVec 22).toNat % (full.params.fragSize * 3) = 0 ∧
      raw.length = ((6 : BitVec 22).toNat + 3) / 4 ∧
      (∀ k < 4 * raw.length, 6 ≤ k → ((raw.getD (k / 4) 0).extractLsb' (8 * (k % 4)) 8 : BitVec 8) = 0#8) ∧
      (full.hil.at 1).constructed = true ∧ (full.dcr.at 1).constructed = true) ∧
    ((0 : Word).toNat / 2 ^ 8 % 2 ^ 8 = 0 ∧ (0 : BitVec 22).toNat % (full.params.fragSize * 4) = 0) := by decide +kernel

/-- Refusals: a reserved flag bit, half a fragment, one byte of padding set, no Hilbert transformer. -/
theorem test_witness_refuses :
    ((8 : Word).toNat / 8 % 32 ≠ 0 ∧ (4 : BitVec 22).toNat % (full.params.fragSize * 4) ≠ 0) ∧
    (Instr.WellFormed (.dbiOpen 0 6 2 0 0 [] [] [0, 0x00010000]) = true ∧ 6 ≤ 6 ∧
      (([0, 0x00010000] : List Word).getD (6 / 4) 0).extractLsb' (8 * (6 % 4)) 8 ≠ 0#8) ∧
    (Instr.WellFormed (.dbiOpen 2 0 0x00170B01 0 0 (List.replicate 11 0) (List.replicate 23 0) []) = true ∧
      (full.hil.at 2).constructed = false ∧ (2 : Inst).toNat < full.params.nHil) := by decide +kernel

/-- Iterator 0 native and iterator 1 real-sampled, each with its last fragment left. -/
theorem test_witness_next :
    (full.dbi.at 0).isOpen = true ∧ (full.dbi.at 0).mode = false ∧ (full.dbi.at 0).pos < (full.dbi.at 0).nfrag ∧
    (full.dbi.at 1).isOpen = true ∧ (full.dbi.at 1).mode = true ∧ (full.dbi.at 1).pos < (full.dbi.at 1).nfrag ∧
    (full.dbi.at 1).dcen = true ∧ (1 : Inst).toNat < full.params.nDbi := by decide +kernel

theorem test_witness_end :
    let s := after full (.dbiNext 0)
    (s.dbi.at 0).isOpen = true ∧ (s.dbi.at 0).nfrag ≤ (s.dbi.at 0).pos ∧ (full.dbi.at 3).isOpen = false ∧
      (3 : Inst).toNat < full.params.nDbi := by decide +kernel

theorem test_witness_position :
    exec (.dbiNext 1) full = .next (after full (.dbiNext 1)) ∧ ((after full (.dbiNext 1)).dbi.at 1).isOpen = true ∧
      exec (.dbiOpen 0 0 0 0 0 [] [] []) full = .next (after full (.dbiOpen 0 0 0 0 0 [] [] [])) :=
  ⟨rfl, by decide +kernel, rfl⟩

/-- Two packed real-sampled buffers of one fragment each, with DC removal, and the joined buffer. -/
theorem test_witness_seam :
    let o : Inst → BitVec 22 → List F32 → List F32 → List Word → Instr := fun i l ri rq w =>
      .dbiOpen i l 0x00170B07 5 6 ri rq w
    let w₁ : List Word := [0x03020100, 0x00000504]
    let w₂ : List Word := [0x09080706, 0x00000B0A]
    let w₃ : List Word := [0x03020100, 0x07060504, 0x0B0A0908]
    let z : List F32 := List.replicate 11 0
    let y : List F32 := List.replicate 23 0
    let s₁ := after full (o 1 6 z y w₁)
    let a := s₁.run (List.replicate (s₁.dbi.at 1).nfrag (.dbiNext 1))
    let s₂ := after a (o 1 6 (a.dbi.at 1).residI (a.dbi.at 1).residQ w₂)
    let s₃ := after full (o 1 12 z y w₃)
    (exec (o 1 6 z y w₁) full = .next s₁ ∧ exec (o 1 6 (a.dbi.at 1).residI (a.dbi.at 1).residQ w₂) a = .next s₂ ∧
      exec (o 1 12 z y w₃) full = .next s₃) ∧
    (rawBytes w₃).take 12 = (rawBytes w₁).take 6 ++ (rawBytes w₂).take 6 ∧
    s₁.rsp = full.rsp ++ [[0]] ∧ s₂.rsp = a.rsp ++ [[0]] ∧ s₃.rsp = full.rsp ++ [[0]] := by
  refine ⟨⟨rfl, rfl, rfl⟩, ?_⟩
  decide +kernel

/-! The channel output processor. -/

/-- The smallest and the largest legal sizes; a channel opened already; `RECOVERY` past `CAPACITY`. -/
theorem test_witness_copOpen :
    ((3 : Inst).toNat < full.params.nCop ∧ (full.cop.at 3).opened = false) ∧
    (1 ≤ (1 : Word).toNat ∧ (1024 : Word).toNat ≤ full.params.maxQcap ∧ (12 : Word).toNat ≤ full.params.maxBlock) ∧
    (full.cop.at 0).opened = true ∧ ¬((3 : Word).toNat ≤ (2 : Word).toNat) := by decide +kernel

/-- Channel 0 at capacity, channel 1 one below; a block of `MAX_BLOCK` samples. -/
theorem test_witness_submit :
    ((full.cop.at 0).opened = true ∧ (full.cop.at 0).queue.length = (full.cop.at 0).capacity.toNat) ∧
    ((full.cop.at 1).opened = true ∧ (full.cop.at 1).queue.length ≠ (full.cop.at 1).capacity.toNat) ∧
    (List.replicate 12 ((0, 0) : Cplx)).length ≤ full.params.maxBlock := by decide +kernel

/-- `DrainDequeuesTheOldest`, `DrainsRunOn`: an overflowing channel that a drain of 2 clears and a drain of 1 does not. -/
theorem test_witness_drain :
    (0 : Inst).toNat < full.params.nCop ∧ (full.cop.at 0).opened = true ∧ (full.cop.at 0).ovf = true ∧
    (full.cop.at 0).queue.length - min (2 : BitVec 22).toNat 2 < (full.cop.at 0).recovery.toNat ∧
    ¬((full.cop.at 0).queue.length - min (1 : BitVec 22).toNat 2 < (full.cop.at 0).recovery.toNat) ∧
    (2 : BitVec 22).toNat = (1 : BitVec 22).toNat + (1 : BitVec 22).toNat := by decide +kernel

theorem test_witness_finish : (full.cop.at 1).inflight = some [b100] ∧
    (full.cop.at 1).asm.length < (full.cop.at 1).outblk.toNat ∧ b100.data[1]? = some (0x40400000, 0x40800000) ∧
    2 ^ 32 - 1 < 2 ^ 32 ∧ countWord (2 ^ 32 - 1) = 0xFFFFFFFF := by
  decide +kernel

theorem test_witness_detach : (full.cop.at 0).opened = true ∧ (full.cop.at 3).opened = false ∧
    (3 : Inst).toNat < full.params.nCop ∧ full.params.maxBlock < (List.replicate 13 ((0, 0) : Cplx)).length := by
  decide +kernel

theorem test_witness_fifo :
    exec (.copDrain 0 1) full = .next (after full (.copDrain 0 1)) ∧
    exec (.copSubmit 1 1 0 []) full = .next (after full (.copSubmit 1 1 0 [])) ∧
    ((after full (.copDrain 0 1)).cop.at 0).queue = [b200] := ⟨rfl, rfl, by decide +kernel⟩

/-- Program P3: four submissions into a queue of two. -/
theorem test_witness_backpressure :
    let q := chan [] false 0
    let subs : List (Word × Word × List Cplx) := [(1, 0, []), (2, 0, []), (3, 0, [(1, 2)]), (4, 0, [])]
    ((base.putCop 0 q).cop.at 0 = q ∧ q.opened = true ∧ q.queue = [] ∧ q.ovf = false ∧ q.drops = 0#32 ∧
      1 ≤ q.recovery.toNat ∧ q.recovery.toNat ≤ q.capacity.toNat) ∧
    (∀ b ∈ subs, b.2.2.length ≤ base.params.maxBlock) ∧ q.capacity.toNat < subs.length ∧ subs.length < 2 ^ 32 := by
  decide +kernel

/-- A submission to channel 1, whose drain is between its phases. -/
theorem test_witness_commutes :
    exec (.copSubmit 1 1 0 []) full = .next (after full (.copSubmit 1 1 0 [])) ∧
    exec (.copSubmit 1 1 0 []) (finishDrain full 1) = .next (after (finishDrain full 1) (.copSubmit 1 1 0 [])) ∧
    (full.cop.at 1).opened = true ∧ ([] : List Cplx).length ≤ full.params.maxBlock := ⟨rfl, rfl, by decide +kernel, by decide +kernel⟩

end Slice0
end

section
/-! SUPPORT. Rounding: the value of bits [30:0], what `roundMag` gives, and that nothing representable is nearer (R9). -/

namespace Sys2Proof.Machine

/-- The value of bits [30:0] in units of 2^-149; exponent 255 is read as any other, so the function is monotone over
the infinity too. -/
def magVal (w : Nat) : Nat := if w < 2 ^ 23 then w else (2 ^ 23 + w % 2 ^ 23) * 2 ^ (w / 2 ^ 23 - 1)

@[simp] theorem magVal_zero : magVal 0 = 0 := rfl

/-- A significand up to and including 2^24 at last place `q`: the carry into the exponent keeps the value. -/
theorem magVal_scaled {q s : Nat} (hq : q = 0 ∨ 2 ^ 23 ≤ s) (hs : s ≤ 2 ^ 24) : magVal (q * 2 ^ 23 + s) = s * 2 ^ q := by
  have hs' : s < 2 ^ 23 ∨ (2 ^ 23 ≤ s ∧ s < 2 ^ 24) ∨ s = 2 ^ 24 := by omega
  rcases hs' with h | ⟨h, h'⟩ | h
  · obtain rfl : q = 0 := by omega
    rw [magVal, if_pos (by omega)]
    simp
  · have he : (q * 2 ^ 23 + s) / 2 ^ 23 = q + 1 := by omega
    have hf : 2 ^ 23 + (q * 2 ^ 23 + s) % 2 ^ 23 = s := by omega
    rw [magVal, if_neg (by omega), he, hf, Nat.add_sub_cancel]
  · have he : (q * 2 ^ 23 + s) / 2 ^ 23 = q + 2 := by omega
    have hf : (q * 2 ^ 23 + s) % 2 ^ 23 = 0 := by omega
    rw [magVal, he, hf, if_neg (by omega), h, show q + 2 - 1 = q + 1 from rfl, pow_succ 2 q]
    ring

/-- Every magnitude is a significand below 2^24 at a last place, normalized above the lowest. -/
theorem exists_significand (w : Nat) :
    ∃ q s, w = q * 2 ^ 23 + s ∧ s < 2 ^ 24 ∧ (q = 0 ∨ 2 ^ 23 ≤ s) := by
  by_cases h : w < 2 ^ 23
  · exact ⟨0, w, by omega, by omega, .inl rfl⟩
  · exact ⟨w / 2 ^ 23 - 1, 2 ^ 23 + w % 2 ^ 23, by omega, by omega, .inr (by omega)⟩

/-- Larger bits are a larger value. -/
theorem magVal_strictMono : StrictMono magVal := by
  refine strictMono_nat_of_lt_succ fun w => ?_
  obtain ⟨q, s, rfl, hs, hq⟩ := exists_significand w
  rw [Nat.add_assoc, magVal_scaled hq hs.le, magVal_scaled (by omega) hs]
  exact Nat.mul_lt_mul_of_pos_right (Nat.lt_succ_self s) (by positivity)

/-! The value of a bit pattern. -/

theorem expField_eq (a : F32) : expField a = a.toNat % 2 ^ 31 / 2 ^ 23 := by
  rw [expField]
  omega

theorem fracField_eq (a : F32) : fracField a = a.toNat % 2 ^ 31 % 2 ^ 23 := by
  rw [fracField]
  omega

theorem isFinite_iff (a : F32) : isFinite a = true ↔ a.toNat % 2 ^ 31 < 0x7F800000 := by
  have := expField_lt a
  rw [isFinite, decide_eq_true_iff]
  rw [expField_eq] at *
  omega

theorem isFinite_eq_false_iff (a : F32) : isFinite a = false ↔ 0x7F800000 ≤ a.toNat % 2 ^ 31 := by
  rw [← Bool.not_eq_true, isFinite_iff]
  omega

/-- A finite bit pattern is its sign and the value of its bits [30:0]. -/
theorem unpack_of_isFinite {a : F32} (h : isFinite a = true) :
    unpack a = .fin (signBit a) (magVal (a.toNat % 2 ^ 31)) := by
  have he : expField a ≠ 255 := by simpa [isFinite] using h
  rw [unpack, if_neg he, expField_eq, fracField_eq, pow2_eq, magVal]
  by_cases hz : a.toNat % 2 ^ 31 < 2 ^ 23
  · rw [if_pos (Nat.div_eq_of_lt hz), if_pos hz, Nat.mod_eq_of_lt hz]
  · rw [if_neg (by omega), if_neg hz]

theorem units_of_isFinite {a : F32} (h : isFinite a = true) :
    units a = if signBit a then -(magVal (a.toNat % 2 ^ 31) : Int) else magVal (a.toNat % 2 ^ 31) := by
  rw [units, unpack_of_isFinite h]

theorem natAbs_units {a : F32} (h : isFinite a = true) : (units a).natAbs = magVal (a.toNat % 2 ^ 31) := by
  rw [units_of_isFinite h]
  split <;> omega

theorem signed_mod (neg : Bool) {mag : Nat} (h : mag < 2 ^ 31) : (signed neg mag).toNat % 2 ^ 31 = mag := by
  rw [signed_toNat neg mag h]
  cases neg <;> simp <;> omega

theorem isFinite_signed {neg : Bool} {mag : Nat} (h : mag < 0x7F800000) : isFinite (signed neg mag) = true := by
  rw [isFinite_iff, signed_mod neg (by omega)]
  exact h

theorem units_signed {neg : Bool} {mag : Nat} (h : mag < 0x7F800000) :
    units (signed neg mag) = if neg then -(magVal mag : Int) else magVal mag := by
  have h31 : mag < 2 ^ 31 := by omega
  rw [units_of_isFinite (isFinite_signed h), signBit_signed neg mag h31, signed_mod neg h31]

/-! Rounding a quotient by a power of two. -/

/-- A tie leaves an even result. -/
theorem roundEven_tie {m d k : Nat}
    (h : ((m : Int) - (roundEven m d * 2 ^ d : Nat)).natAbs = ((m : Int) - (k * 2 ^ d : Nat)).natAbs)
    (hk : k ≠ roundEven m d) : roundEven m d % 2 = 0 := by
  have hm := Nat.div_add_mod m (2 ^ d)
  have hr := Nat.mod_lt m (show 0 < 2 ^ d by positivity)
  simp only [roundEven, pow2_eq] at *
  generalize m / 2 ^ d = q at *
  generalize m % 2 ^ d = r at *
  generalize 2 ^ d = p at *
  have e1 : (q + 1) * p = p * q + p := by ring
  have e2 : (q + 2) * p = p * q + p + p := by ring
  have e : q * p = p * q := Nat.mul_comm _ _
  have below (j : Nat) (hj : k ≤ j) : k * p ≤ j * p := Nat.mul_le_mul_right p hj
  have above (j : Nat) (hj : j ≤ k) : j * p ≤ k * p := Nat.mul_le_mul_right p hj
  by_cases hc : p < 2 * r ∨ 2 * r = p ∧ q % 2 = 1
  · rw [if_pos hc] at *
    rcases Nat.lt_or_gt_of_ne hk with hk | hk
    · have := below q (by omega)
      omega
    · have := above (q + 2) (by omega)
      omega
  · rw [if_neg hc] at *
    rcases Nat.lt_or_gt_of_ne hk with hk | hk
    · obtain ⟨j, rfl⟩ : ∃ j, q = j + 1 := ⟨q - 1, by omega⟩
      have := below j (by omega)
      have : (j + 1) * p = j * p + p := by ring
      omega
    · have := above (q + 1) (by omega)
      omega

/-- The error is at most half a last place. -/
theorem roundEven_error (m d : Nat) : 2 * ((m : Int) - (roundEven m d * 2 ^ d : Nat)).natAbs ≤ 2 ^ d := by
  have hm := Nat.div_add_mod m (2 ^ d)
  have hr := Nat.mod_lt m (show 0 < 2 ^ d by positivity)
  simp only [roundEven, pow2_eq]
  generalize m / 2 ^ d = q at *
  generalize m % 2 ^ d = r at *
  generalize 2 ^ d = p at *
  have e1 : (q + 1) * p = p * q + p := by ring
  have e : q * p = p * q := Nat.mul_comm _ _
  split <;> omega

/-- The result passes an even-odd midpoint exactly when the quotient reaches it. -/
theorem lt_roundEven_iff {m d n : Nat} (hn : n % 2 = 1) : n < roundEven m d ↔ (2 * n + 1) * 2 ^ d ≤ 2 * m := by
  have hm := Nat.div_add_mod m (2 ^ d)
  have hr := Nat.mod_lt m (show 0 < 2 ^ d by positivity)
  simp only [roundEven, pow2_eq]
  generalize m / 2 ^ d = q at *
  generalize m % 2 ^ d = r at *
  generalize 2 ^ d = p at *
  have e : (2 * n + 1) * p = 2 * (p * n) + p := by ring
  rw [e]
  rcases Nat.lt_trichotomy n q with h | rfl | h
  · obtain ⟨j, rfl⟩ : ∃ j, q = n + 1 + j := ⟨q - (n + 1), by omega⟩
    have : p * (n + 1 + j) = p * n + p + p * j := by ring
    split <;> omega
  · split <;> omega
  · obtain ⟨j, rfl⟩ : ∃ j, n = q + 1 + j := ⟨n - (q + 1), by omega⟩
    have : p * (q + 1 + j) = p * q + p + p * j := by ring
    split <;> omega

theorem le_roundEven {m d n : Nat} (h : n * 2 ^ d ≤ m) : n ≤ roundEven m d := by
  have : n ≤ m / 2 ^ d := (Nat.le_div_iff_mul_le (by positivity)).mpr h
  simp only [roundEven, pow2_eq]
  split <;> omega

theorem roundEven_le {m d n : Nat} (h : m ≤ n * 2 ^ d) : roundEven m d ≤ n := by
  have hp : 0 < 2 ^ d := by positivity
  have h1 := roundEven_nearest m d n
  by_contra hc
  have h2 : (n + 1) * 2 ^ d ≤ roundEven m d * 2 ^ d := Nat.mul_le_mul_right _ (by omega)
  have h3 : (n + 1) * 2 ^ d = n * 2 ^ d + 2 ^ d := by ring
  generalize 2 ^ d = p at *
  omega

/-! Rounding to a magnitude. -/

/-- The exponent of the last place kept when `m` times 2^-`k` units are rounded to 24 bits. -/
def lastPlace (m k : Nat) : Nat := m.log2 + 1 - (24 + k)

theorem roundMag_eq (m k : Nat) :
    roundMag m k = min (lastPlace m k * 2 ^ 23 + roundEven m (k + lastPlace m k)) 0x7F800000 := rfl

theorem lt_of_lastPlace (m k : Nat) : m < 2 ^ (24 + (k + lastPlace m k)) :=
  lt_of_lt_of_le Nat.lt_log2_self (Nat.pow_le_pow_right (by norm_num) (by rw [lastPlace]; omega))

theorem le_of_lastPlace {m k : Nat} (h : lastPlace m k ≠ 0) : 2 ^ (23 + (k + lastPlace m k)) ≤ m := by
  have hm : m ≠ 0 := by
    rintro rfl
    exact h (by rw [lastPlace, Nat.log2_zero]; omega)
  refine le_trans (Nat.pow_le_pow_right (by norm_num) ?_) (Nat.log2_self_le hm)
  rw [lastPlace] at *
  omega

theorem roundEven_lastPlace_le (m k : Nat) : roundEven m (k + lastPlace m k) ≤ 2 ^ 24 :=
  roundEven_le (by rw [← pow_add]; exact (lt_of_lastPlace m k).le)

theorem le_roundEven_lastPlace (m k : Nat) : lastPlace m k = 0 ∨ 2 ^ 23 ≤ roundEven m (k + lastPlace m k) := by
  by_cases h : lastPlace m k = 0
  · exact .inl h
  · exact .inr (le_roundEven (by rw [← pow_add]; exact le_of_lastPlace h))

/-- Below infinity the result is the rounded significand at the last place kept. -/
theorem magVal_roundMag {m k : Nat} (h : roundMag m k < 0x7F800000) :
    magVal (roundMag m k) = roundEven m (k + lastPlace m k) * 2 ^ lastPlace m k := by
  rw [roundMag_eq] at *
  rw [min_eq_left (by omega)]
  exact magVal_scaled (le_roundEven_lastPlace m k) (roundEven_lastPlace_le m k)

theorem roundMag_mod_two {m k : Nat} (h : roundMag m k < 0x7F800000) :
    roundMag m k % 2 = roundEven m (k + lastPlace m k) % 2 := by
  rw [roundMag_eq] at *
  omega

/-- A representable value is a multiple of the last place, or lies below the binade of the rounded number. -/
theorem magVal_multiple_or_small (m k w : Nat) :
    (∃ j, magVal w = j * 2 ^ lastPlace m k) ∨
      (lastPlace m k ≠ 0 ∧ magVal w < 2 ^ (23 + lastPlace m k)) := by
  obtain ⟨q, s, rfl, hs, hq⟩ := exists_significand w
  rw [magVal_scaled hq hs.le]
  by_cases h : lastPlace m k ≤ q
  · refine .inl ⟨s * 2 ^ (q - lastPlace m k), ?_⟩
    rw [Nat.mul_assoc, ← pow_add, Nat.sub_add_cancel h]
  · refine .inr ⟨by omega, ?_⟩
    calc s * 2 ^ q < 2 ^ 24 * 2 ^ q := Nat.mul_lt_mul_of_pos_right hs (by positivity)
      _ = 2 ^ (24 + q) := (pow_add 2 24 q).symm
      _ ≤ 2 ^ (23 + lastPlace m k) := Nat.pow_le_pow_right (by norm_num) (by omega)

/-- No representable value is nearer to `m` times 2^-`k` than the rounded one, and a tie goes to the even one. -/
theorem roundMag_nearest {m k : Nat} (h : roundMag m k < 0x7F800000) (w : Nat) :
    ((m : Int) - (magVal (roundMag m k) * 2 ^ k : Nat)).natAbs ≤ ((m : Int) - (magVal w * 2 ^ k : Nat)).natAbs ∧
    (((m : Int) - (magVal (roundMag m k) * 2 ^ k : Nat)).natAbs = ((m : Int) - (magVal w * 2 ^ k : Nat)).natAbs →
      magVal w ≠ magVal (roundMag m k) → roundMag m k % 2 = 0) := by
  have scale (j : Nat) : j * 2 ^ lastPlace m k * 2 ^ k = j * 2 ^ (k + lastPlace m k) := by
    rw [Nat.mul_assoc, ← pow_add, Nat.add_comm k]
  rw [magVal_roundMag h, roundMag_mod_two h, scale]
  rcases magVal_multiple_or_small m k w with ⟨j, hj⟩ | ⟨hq, hw⟩
  · rw [hj, scale]
    exact ⟨roundEven_nearest _ _ _, fun e hne => roundEven_tie e fun hj' => hne (by rw [hj'])⟩
  · have h23 := roundEven_nearest m (k + lastPlace m k) (2 ^ 23)
    have hlow := le_of_lastPlace hq
    have hlt : magVal w * 2 ^ k < 2 ^ (23 + (k + lastPlace m k)) := by
      calc magVal w * 2 ^ k < 2 ^ (23 + lastPlace m k) * 2 ^ k := Nat.mul_lt_mul_of_pos_right hw (by positivity)
        _ = 2 ^ (23 + (k + lastPlace m k)) := by rw [← pow_add]; congr 1; omega
    rw [← pow_add] at h23
    constructor <;> omega

/-- The same of a rounded number with its sign, against every finite bit pattern. -/
theorem signed_roundMag_nearest {m k : Nat} (neg : Bool) (h : roundMag m k < 0x7F800000) {v : F32}
    (hv : isFinite v = true) {z : Int} (hz : z = if neg then -(m : Int) else m) :
    (z - units (signed neg (roundMag m k)) * 2 ^ k).natAbs ≤ (z - units v * 2 ^ k).natAbs ∧
    ((z - units (signed neg (roundMag m k)) * 2 ^ k).natAbs = (z - units v * 2 ^ k).natAbs →
      units v ≠ units (signed neg (roundMag m k)) → (signed neg (roundMag m k)).toNat % 2 = 0) := by
  have hnear := roundMag_nearest h (v.toNat % 2 ^ 31)
  have hzero := (roundMag_nearest h 0).1
  have hmod : (signed neg (roundMag m k)).toNat % 2 = roundMag m k % 2 := by
    rw [signed_toNat neg _ (by omega)]
    split <;> omega
  rw [hmod, units_signed h, units_of_isFinite hv, hz]
  rw [magVal_zero, Nat.zero_mul] at hzero
  generalize magVal (roundMag m k) = r at *
  generalize magVal (v.toNat % 2 ^ 31) = w at *
  have hw : w = 0 ∧ w * 2 ^ k = 0 ∨ 0 < w * 2 ^ k := by
    rcases Nat.eq_zero_or_pos w with rfl | h0
    · simp
    · exact .inr (by positivity)
  have hcast (x : Nat) : (x : Int) * 2 ^ k = (x * 2 ^ k : Nat) := by push_cast; rfl
  by_cases hs : signBit v = neg
  · cases neg <;> simp only [hs, if_true, Bool.false_eq_true, if_false, neg_mul, hcast] <;> omega
  · have hs' : signBit v = !neg := Bool.eq_not.mpr hs
    cases neg <;>
      simp only [hs', Bool.not_true, Bool.not_false, if_true, Bool.false_eq_true, if_false, neg_mul, hcast] <;> omega

end Sys2Proof.Machine
end

section
/-! SUPPORT. Sums and products of finite operands: the exact result rounded once (R9). -/

namespace Sys2Proof.Machine

theorem roundMag_le (m k : Nat) : roundMag m k ≤ 0x7F800000 := by
  rw [roundMag_eq]
  exact min_le_right _ _

theorem isFinite_signed_roundMag_iff {neg : Bool} {m k : Nat} :
    isFinite (signed neg (roundMag m k)) = true ↔ roundMag m k < 0x7F800000 := by
  have := roundMag_le m k
  rw [isFinite_iff, signed_mod neg (by omega)]

theorem fadd_of_isFinite {a b : F32} (ha : isFinite a = true) (hb : isFinite b = true) :
    fadd a b = if units a + units b = 0 then signed (signBit a && signBit b) 0
      else signed (units a + units b < 0) (roundMag (units a + units b).natAbs 0) := by
  rw [fadd, unpack_of_isFinite ha, unpack_of_isFinite hb]

theorem fmul_of_isFinite {a b : F32} (ha : isFinite a = true) (hb : isFinite b = true) :
    fmul a b = signed (signBit a != signBit b) (roundMag (units a * units b).natAbs 149) := by
  rw [fmul, unpack_of_isFinite ha, unpack_of_isFinite hb, Int.natAbs_mul, natAbs_units ha, natAbs_units hb]

theorem signBit_fmul {a b : F32} (ha : isFinite a = true) (hb : isFinite b = true) :
    signBit (fmul a b) = (signBit a != signBit b) := by
  rw [fmul_of_isFinite ha hb, signBit_signed]
  exact lt_of_le_of_lt (roundMag_le _ _) (by norm_num)

/-- The exact product is its magnitude with the product of the signs. -/
theorem units_mul_eq_signed {a b : F32} (ha : isFinite a = true) (hb : isFinite b = true) :
    units a * units b =
      if signBit a != signBit b then -((units a * units b).natAbs : Int) else (units a * units b).natAbs := by
  rw [Int.natAbs_mul, natAbs_units ha, natAbs_units hb, units_of_isFinite ha, units_of_isFinite hb]
  cases signBit a <;> cases signBit b <;> simp

theorem signed_zero (neg : Bool) : signed neg 0 = if neg then 0x80000000#32 else 0x00000000#32 := by
  cases neg <;> rfl

theorem units_signed_zero (neg : Bool) : units (signed neg 0) = 0 := by
  cases neg <;> rfl

/-- Settles O21: a non-zero sum is rounded once, and nothing finite is nearer (`signed_roundMag_nearest`); a zero sum is
exact. -/
theorem sumRoundsToNearestEven : Obligations.SumRoundsToNearestEven := by
  intro a b v ha hb hr hv
  rw [fadd_of_isFinite ha hb] at *
  generalize units a + units b = z at *
  by_cases hz : z = 0
  · subst hz
    rw [if_pos rfl, units_signed_zero]
    exact ⟨by omega, fun h hne => absurd (by omega) hne, fun _ => signed_zero _⟩
  · rw [if_neg hz, isFinite_signed_roundMag_iff] at hr
    have h := signed_roundMag_nearest (decide (z < 0)) hr hv (z := z) (by
      simp only [decide_eq_true_eq]
      split <;> omega)
    rw [if_neg hz]
    simp only [pow_zero, mul_one] at h
    exact ⟨h.1, h.2, fun h0 => absurd h0 hz⟩

/-- Settles O22: the product of the magnitudes is rounded once, at 2^-298, and takes the product of the signs. -/
theorem productRoundsToNearestEven : Obligations.ProductRoundsToNearestEven := by
  intro a b v ha hb hr hv
  have hr' := hr
  rw [fmul_of_isFinite ha hb, isFinite_signed_roundMag_iff] at hr'
  have h := signed_roundMag_nearest _ hr' hv (units_mul_eq_signed ha hb)
  rw [← fmul_of_isFinite ha hb] at h
  exact ⟨h.1, h.2, signBit_fmul ha hb⟩

end Sys2Proof.Machine
end

section
/-! SUPPORT. Infinities, NaNs, overflow, negation and equality (R9, R10, R11). Every class of bit patterns is a range of
bits [30:0]. -/

namespace Sys2Proof.Machine

/-! Classes of bit patterns. -/

theorem isNaN_iff (a : F32) : isNaN a = true ↔ 0x7F800000 < a.toNat % 2 ^ 31 := by
  simp only [isNaN, expField_eq, fracField_eq, Bool.and_eq_true, decide_eq_true_eq]
  omega

theorem isNaN_eq_false_iff (a : F32) : isNaN a = false ↔ a.toNat % 2 ^ 31 ≤ 0x7F800000 := by
  rw [← Bool.not_eq_true, isNaN_iff]
  omega

theorem isZero_iff (a : F32) : isZero a = true ↔ a.toNat % 2 ^ 31 = 0 := by simp [isZero]

theorem isFinite_of_isZero {a : F32} (h : isZero a = true) : isFinite a = true := by
  rw [isFinite_iff, (isZero_iff a).mp h]
  norm_num

theorem isNaN_of_isFinite {a : F32} (h : isFinite a = true) : isNaN a = false := by
  rw [isNaN_eq_false_iff]
  exact ((isFinite_iff a).mp h).le

/-- A bit pattern is its sign bit and its bits [30:0]. -/
theorem signed_signBit (a : F32) : signed (signBit a) (a.toNat % 2 ^ 31) = a := by
  refine BitVec.eq_of_toNat_eq ?_
  have := a.isLt
  rw [signed_toNat _ _ (by omega)]
  simp only [signBit, decide_eq_true_eq]
  split <;> omega

theorem eq_of_signBit_of_low {a b : F32} (hs : signBit a = signBit b) (h : a.toNat % 2 ^ 31 = b.toNat % 2 ^ 31) :
    a = b := by
  rw [← signed_signBit a, ← signed_signBit b, hs, h]

theorem low_of_isInf {a : F32} (hn : isNaN a = false) (hf : isFinite a = false) : a.toNat % 2 ^ 31 = 0x7F800000 :=
  le_antisymm ((isNaN_eq_false_iff a).mp hn) ((isFinite_eq_false_iff a).mp hf)

/-- An infinity is the one of its sign. -/
theorem eq_inf {a : F32} (hn : isNaN a = false) (hf : isFinite a = false) : signed (signBit a) 0x7F800000 = a := by
  rw [← low_of_isInf hn hf, signed_signBit]

theorem signed_inf (neg : Bool) : signed neg 0x7F800000 = if neg then 0xFF800000#32 else 0x7F800000#32 := by
  cases neg <;> rfl

theorem isNaN_signed {neg : Bool} {mag : Nat} (h : mag ≤ 0x7F800000) : isNaN (signed neg mag) = false := by
  rw [isNaN_eq_false_iff, signed_mod neg (by omega)]
  exact h

theorem unpack_of_isNaN {a : F32} (h : isNaN a = true) : unpack a = .nan := by
  obtain ⟨-, hu⟩ | ⟨hn, -⟩ | ⟨hn, -⟩ := unpack_cases a
  · exact hu
  · exact absurd h (by simp [hn])
  · exact absurd h (by simp [hn])

theorem unpack_of_isInf {a : F32} (hn : isNaN a = false) (hf : isFinite a = false) : unpack a = .inf (signBit a) := by
  obtain ⟨h, -⟩ | ⟨-, -, hu⟩ | ⟨-, h, -⟩ := unpack_cases a
  · exact absurd hn (by simp [h])
  · exact hu
  · exact absurd hf (by simp [h])

theorem magVal_eq_zero_iff (a : F32) : magVal (a.toNat % 2 ^ 31) = 0 ↔ isZero a = true := by
  rw [isZero_iff, ← magVal_zero, magVal_strictMono.injective.eq_iff]
  rfl

theorem isNaN_nanOf (op : FOp) (a b : F32) : isNaN (nanOf op a b) = true := (quietNaN_isNaN _).1

theorem quiet_nanOf (op : FOp) (a b : F32) : 2 ^ 22 ≤ fracField (nanOf op a b) := (quietNaN_isNaN _).2

/-! Negation. -/

theorem low_fneg (a : F32) : (fneg a).toNat % 2 ^ 31 = a.toNat % 2 ^ 31 := by
  rw [fneg, BitVec.toNat_xor, Nat.xor_mod_two_pow]
  simp

theorem signBit_fneg (a : F32) : signBit (fneg a) = !signBit a := by
  have ha := a.isLt
  have hx : (fneg a).toNat / 2 ^ 31 = a.toNat / 2 ^ 31 ^^^ 1 := by
    rw [fneg, BitVec.toNat_xor, Nat.xor_div_two_pow]
    rfl
  have hlt := (fneg a).isLt
  have hflip : (fneg a).toNat / 2 ^ 31 = 1 - a.toNat / 2 ^ 31 := by
    have hd : a.toNat / 2 ^ 31 = 0 ∨ a.toNat / 2 ^ 31 = 1 := by omega
    generalize a.toNat / 2 ^ 31 = t at *
    rcases hd with rfl | rfl <;> exact hx
  simp only [signBit, Bool.eq_not, ne_eq, decide_eq_decide]
  omega

@[simp] theorem isNaN_fneg (a : F32) : isNaN (fneg a) = isNaN a := by
  rw [Bool.eq_iff_iff, isNaN_iff, isNaN_iff, low_fneg]

@[simp] theorem isFinite_fneg (a : F32) : isFinite (fneg a) = isFinite a := by
  rw [Bool.eq_iff_iff, isFinite_iff, isFinite_iff, low_fneg]

theorem units_of_not_isFinite {a : F32} (h : isFinite a = false) : units a = 0 := by
  rw [units]
  obtain ⟨-, hu⟩ | ⟨-, -, hu⟩ | ⟨-, hf, -⟩ := unpack_cases a
  · rw [hu]
  · rw [hu]
  · exact absurd h (by simp [hf])

theorem units_fneg (a : F32) : units (fneg a) = -units a := by
  cases h : isFinite a
  · rw [units_of_not_isFinite h, units_of_not_isFinite (by rw [isFinite_fneg, h]), neg_zero]
  · rw [units_of_isFinite h, units_of_isFinite (by rw [isFinite_fneg, h]), low_fneg, signBit_fneg]
    cases signBit a <;> simp

/-! Sums. -/

/-- The operands whose sum is a NaN. -/
def AddInvalid (a b : F32) : Prop :=
  isNaN a = true ∨ isNaN b = true ∨ (isFinite a = false ∧ isFinite b = false ∧ signBit a ≠ signBit b)

theorem fadd_of_invalid {a b : F32} (h : AddInvalid a b) : fadd a b = nanOf .add a b := by
  cases ha : isNaN a
  case true => rw [fadd, unpack_of_isNaN ha]
  cases hb : isNaN b
  case true =>
    rcases unpack_cases a with ⟨-, h⟩ | ⟨-, -, h⟩ | ⟨-, -, m, h, -⟩ <;> rw [fadd, h, unpack_of_isNaN hb]
  obtain h | h | ⟨fa, fb, hs⟩ := h
  · exact absurd h (by simp [ha])
  · exact absurd h (by simp [hb])
  · rw [fadd, unpack_of_isInf ha fa, unpack_of_isInf hb fb]
    exact if_neg hs

/-- An infinite left operand is the sum. -/
theorem fadd_of_inf_left {a b : F32} (h : ¬AddInvalid a b) (fa : isFinite a = false) : fadd a b = a := by
  simp only [AddInvalid, not_or, not_and, not_not, Bool.not_eq_true] at h
  obtain ⟨ha, hb, hs⟩ := h
  rw [fadd, unpack_of_isInf ha fa]
  cases fb : isFinite b
  · rw [unpack_of_isInf hb fb]
    exact (if_pos (hs fa fb)).trans (eq_inf ha fa)
  · rw [unpack_of_isFinite fb]
    exact eq_inf ha fa

/-- An infinite right operand is the sum. -/
theorem fadd_of_inf_right {a b : F32} (h : ¬AddInvalid a b) (fb : isFinite b = false) : fadd a b = b := by
  cases fa : isFinite a
  · rw [fadd_of_inf_left h fa]
    simp only [AddInvalid, not_or, not_and, not_not, Bool.not_eq_true] at h
    obtain ⟨ha, hb, hs⟩ := h
    rw [← eq_inf ha fa, ← eq_inf hb fb, hs fa fb]
  · have hb : isNaN b = false := by
      simp only [AddInvalid, not_or, Bool.not_eq_true] at h
      exact h.2.1
    rw [fadd, unpack_of_isFinite fa, unpack_of_isInf hb fb]
    exact eq_inf hb fb

theorem isNaN_fadd_iff (a b : F32) : isNaN (fadd a b) = true ↔ AddInvalid a b := by
  refine ⟨fun h => ?_, fun h => by rw [fadd_of_invalid h]; exact isNaN_nanOf ..⟩
  by_contra hi
  have hi' := hi
  simp only [AddInvalid, not_or, Bool.not_eq_true] at hi'
  obtain ⟨ha, hb, -⟩ := hi'
  cases fa : isFinite a
  · rw [fadd_of_inf_left hi fa, ha] at h
    exact absurd h (by simp)
  cases fb : isFinite b
  · rw [fadd_of_inf_right hi fb, hb] at h
    exact absurd h (by simp)
  rw [fadd_of_isFinite fa fb] at h
  split at h
  · rw [isNaN_signed (by norm_num)] at h
    exact absurd h (by simp)
  · rw [isNaN_signed (roundMag_le _ _)] at h
    exact absurd h (by simp)

/-! Differences. -/

/-- A difference is a NaN drawn for it where the sum with the negated operand is one, and that sum elsewhere. -/
theorem fsub_eq (a b : F32) :
    (AddInvalid a (fneg b) ∧ fsub a b = nanOf .sub a b) ∨ (¬AddInvalid a (fneg b) ∧ fsub a b = fadd a (fneg b)) := by
  have hiff : (isNaN a || isNaN b || (!isFinite a && !isFinite b && signBit a = signBit b)) = true ↔
      AddInvalid a (fneg b) := by
    simp [AddInvalid, signBit_fneg, or_assoc, and_assoc]
  by_cases h : AddInvalid a (fneg b)
  · exact .inl ⟨h, if_pos (hiff.mpr h)⟩
  · exact .inr ⟨h, if_neg (mt hiff.mp h)⟩

theorem isNaN_fsub_iff (a b : F32) : isNaN (fsub a b) = true ↔ AddInvalid a (fneg b) := by
  obtain ⟨h, he⟩ | ⟨h, he⟩ := fsub_eq a b
  · rw [he]
    exact iff_of_true (isNaN_nanOf ..) h
  · rw [he, isNaN_fadd_iff]

/-! Products. -/

/-- The operands whose product is a NaN. -/
def MulInvalid (a b : F32) : Prop :=
  isNaN a = true ∨ isNaN b = true ∨ (isFinite a = false ∧ isZero b = true) ∨ (isZero a = true ∧ isFinite b = false)

theorem fmul_of_invalid {a b : F32} (h : MulInvalid a b) : fmul a b = nanOf .mul a b := by
  cases ha : isNaN a
  case true => rw [fmul, unpack_of_isNaN ha]
  cases hb : isNaN b
  case true =>
    rcases unpack_cases a with ⟨-, h⟩ | ⟨-, -, h⟩ | ⟨-, -, m, h, -⟩ <;> rw [fmul, h, unpack_of_isNaN hb]
  obtain h | h | ⟨fa, zb⟩ | ⟨za, fb⟩ := h
  · exact absurd h (by simp [ha])
  · exact absurd h (by simp [hb])
  · rw [fmul, unpack_of_isInf ha fa, unpack_of_isFinite (isFinite_of_isZero zb)]
    exact if_pos ((magVal_eq_zero_iff b).mpr zb)
  · rw [fmul, unpack_of_isInf hb fb, unpack_of_isFinite (isFinite_of_isZero za)]
    exact if_pos ((magVal_eq_zero_iff a).mpr za)

/-- A product with an infinite operand is the infinity with the product of the signs. -/
theorem fmul_of_inf {a b : F32} (h : ¬MulInvalid a b) (hf : isFinite a = false ∨ isFinite b = false) :
    fmul a b = signed (signBit a != signBit b) 0x7F800000 := by
  simp only [MulInvalid, not_or, not_and, Bool.not_eq_true] at h
  obtain ⟨ha, hb, hza, hzb⟩ := h
  cases fa : isFinite a <;> cases fb : isFinite b
  · rw [fmul, unpack_of_isInf ha fa, unpack_of_isInf hb fb]
  · rw [fmul, unpack_of_isInf ha fa, unpack_of_isFinite fb]
    refine if_neg fun h => ?_
    exact absurd ((magVal_eq_zero_iff b).mp h) (by simp [hza fa])
  · rw [fmul, unpack_of_isFinite fa, unpack_of_isInf hb fb]
    refine if_neg fun h => ?_
    exact absurd (hzb ((magVal_eq_zero_iff a).mp h)) (by simp [fb])
  · exact absurd hf (by simp [fa, fb])

theorem isNaN_fmul_iff (a b : F32) : isNaN (fmul a b) = true ↔ MulInvalid a b := by
  refine ⟨fun h => ?_, fun h => by rw [fmul_of_invalid h]; exact isNaN_nanOf ..⟩
  by_contra hi
  by_cases hf : isFinite a = false ∨ isFinite b = false
  · rw [fmul_of_inf hi hf, isNaN_signed le_rfl] at h
    exact absurd h (by simp)
  · simp only [not_or, Bool.not_eq_false] at hf
    rw [fmul_of_isFinite hf.1 hf.2, isNaN_signed (roundMag_le _ _)] at h
    exact absurd h (by simp)

/-! Overflow. -/

/-- The midpoint above the largest finite value, 2^24 - 1 and a half at the last place 2^253. -/
theorem overflow_midpoint : 2 ^ 277 - 2 ^ 252 = (2 ^ 25 - 1) * 2 ^ 252 := by
  rw [Nat.sub_mul, ← pow_add, one_mul]

/-- Rounding reaches infinity exactly at the midpoint above the largest finite value. -/
theorem roundMag_eq_inf_iff (m k : Nat) : 0x7F800000 ≤ roundMag m k ↔ (2 ^ 277 - 2 ^ 252) * 2 ^ k ≤ m := by
  have hs := roundEven_lastPlace_le m k
  have hlt := lt_of_lastPlace m k
  have e : (2 ^ 277 - 2 ^ 252) * 2 ^ k = (2 ^ 25 - 1) * 2 ^ (252 + k) := by
    rw [overflow_midpoint, pow_add, Nat.mul_assoc]
  rw [roundMag_eq, e]
  rcases Nat.lt_trichotomy (lastPlace m k) 253 with h | h | h
  · have hm : 2 ^ (24 + (k + lastPlace m k)) ≤ 2 ^ 24 * 2 ^ (252 + k) := by
      rw [← pow_add]
      exact Nat.pow_le_pow_right (by norm_num) (by omega)
    omega
  · have hov := lt_roundEven_iff (m := m) (d := k + 253) (n := 2 ^ 24 - 1) rfl
    have e' : (2 * (2 ^ 24 - 1) + 1) * 2 ^ (k + 253) = 2 * ((2 ^ 25 - 1) * 2 ^ (252 + k)) := by
      rw [show k + 253 = (252 + k) + 1 by omega, pow_succ]
      ring
    rw [h] at *
    omega
  · have hs' := (le_roundEven_lastPlace m k).resolve_left (by omega)
    have hm := le_of_lastPlace (m := m) (k := k) (by omega)
    have : 2 ^ 25 * 2 ^ (252 + k) ≤ 2 ^ (23 + (k + lastPlace m k)) := by
      rw [← pow_add]
      exact Nat.pow_le_pow_right (by norm_num) (by omega)
    omega

theorem isFinite_signed_roundMag_eq_false_iff {neg : Bool} {m k : Nat} :
    isFinite (signed neg (roundMag m k)) = false ↔ (2 ^ 277 - 2 ^ 252) * 2 ^ k ≤ m := by
  rw [← Bool.not_eq_true, isFinite_signed_roundMag_iff, not_lt, roundMag_eq_inf_iff]

theorem signed_roundMag_of_overflow {neg : Bool} {m k : Nat} (h : isFinite (signed neg (roundMag m k)) = false) :
    signed neg (roundMag m k) = if neg then 0xFF800000#32 else 0x7F800000#32 := by
  rw [isFinite_signed_roundMag_eq_false_iff, ← roundMag_eq_inf_iff] at h
  rw [le_antisymm (roundMag_le m k) h, signed_inf]

theorem fadd_overflow {a b : F32} (ha : isFinite a = true) (hb : isFinite b = true) :
    (isFinite (fadd a b) = false ↔ 2 ^ 277 - 2 ^ 252 ≤ (units a + units b).natAbs) ∧
    (isFinite (fadd a b) = false → fadd a b = if units a + units b < 0 then 0xFF800000#32 else 0x7F800000#32) := by
  rw [fadd_of_isFinite ha hb]
  split
  · rename_i hz
    rw [hz, isFinite_signed (by norm_num), overflow_midpoint]
    simp
  · rw [isFinite_signed_roundMag_eq_false_iff, pow_zero, mul_one]
    refine ⟨Iff.rfl, fun h => ?_⟩
    rw [signed_roundMag_of_overflow (by rwa [isFinite_signed_roundMag_eq_false_iff, pow_zero, mul_one])]
    simp

theorem fmul_overflow {a b : F32} (ha : isFinite a = true) (hb : isFinite b = true) :
    (isFinite (fmul a b) = false ↔ (2 ^ 277 - 2 ^ 252) * 2 ^ 149 ≤ (units a * units b).natAbs) ∧
    (isFinite (fmul a b) = false →
      fmul a b = if signBit a != signBit b then 0xFF800000#32 else 0x7F800000#32) := by
  rw [fmul_of_isFinite ha hb]
  exact ⟨isFinite_signed_roundMag_eq_false_iff, signed_roundMag_of_overflow⟩

/-! Equality. -/

theorem units_eq_zero_iff {a : F32} (h : isFinite a = true) : units a = 0 ↔ isZero a = true := by
  rw [← Int.natAbs_eq_zero, natAbs_units h, magVal_eq_zero_iff]

/-- A non-zero finite value has the sign of its sign bit. -/
theorem units_neg_iff {a : F32} (h : isFinite a = true) (hz : isZero a = false) :
    units a < 0 ↔ signBit a = true := by
  have hne := (units_eq_zero_iff h).not.mpr (by simp [hz])
  rw [units_of_isFinite h] at *
  cases signBit a
  · simp
  · simp at hne ⊢
    omega

/-- Finite values are equal exactly when the bits are, or both are zeros. -/
theorem units_eq_iff {a b : F32} (ha : isFinite a = true) (hb : isFinite b = true) :
    units a = units b ↔ a = b ∨ (isZero a = true ∧ isZero b = true) := by
  constructor
  · intro h
    have hl : a.toNat % 2 ^ 31 = b.toNat % 2 ^ 31 := magVal_strictMono.injective (by
      rw [← natAbs_units ha, ← natAbs_units hb, h])
    have hzz : isZero a = isZero b := by
      rw [Bool.eq_iff_iff, isZero_iff, isZero_iff, hl]
    cases hz : isZero a
    · refine .inl (eq_of_signBit_of_low ?_ hl)
      rw [Bool.eq_iff_iff, ← units_neg_iff ha hz, ← units_neg_iff hb (hzz ▸ hz), h]
    · exact .inr ⟨rfl, hzz ▸ hz⟩
  · rintro (rfl | ⟨za, zb⟩)
    · rfl
    · rw [(units_eq_zero_iff ha).mpr za, (units_eq_zero_iff hb).mpr zb]

theorem feq_of_isNaN {a b : F32} (h : isNaN a = true ∨ isNaN b = true) : feq a b = false := by
  rcases h with h | h <;> simp [feq, h]

theorem feq_iff {a b : F32} (ha : isNaN a = false) (hb : isNaN b = false) :
    feq a b = true ↔ a = b ∨ (isZero a = true ∧ isZero b = true) := by
  simp [feq, ha, hb]

theorem isZero_eq_feq (a : F32) : isZero a = feq a 0x00000000 := by
  cases hn : isNaN a
  · rw [Bool.eq_iff_iff, feq_iff hn (by rfl)]
    refine ⟨fun h => .inr ⟨h, rfl⟩, ?_⟩
    rintro (rfl | ⟨h, -⟩)
    · rfl
    · exact h
  · rw [feq_of_isNaN (.inl hn), ← Bool.not_eq_true, isZero_iff]
    rw [isNaN_iff] at hn
    omega

/-- Settles O23, by the class of the operands: overflow at the midpoint, an infinite operand, the invalid operands of
each operation, negation, equality. -/
theorem specialValuesOfSumsAndProducts : Obligations.SpecialValuesOfSumsAndProducts := by
  refine ⟨fun a b ha hb => ?_, fun a b hn hf => ⟨fun h => ?_, fun h => ?_, fun r hr h => ?_⟩, fun a b h => ?_,
    fun a => ⟨units_fneg a, isNaN_fneg a, isFinite_fneg a⟩, fun a b => ⟨isNaN_fadd_iff a b, ?_, isNaN_fmul_iff a b,
      fun r hr h => ?_⟩, fun a b => ⟨feq_of_isNaN, feq_iff, fun ha hb => ?_, isZero_eq_feq a⟩⟩
  · exact ⟨(fadd_overflow ha hb).1, (fadd_overflow ha hb).2, (fmul_overflow ha hb).1, (fmul_overflow ha hb).2⟩
  · exact fadd_of_inf_left (mt (isNaN_fadd_iff a b).mpr (by simp [h])) hf
  · exact fadd_of_inf_right (mt (isNaN_fadd_iff b a).mpr (by simp [h])) hf
  · rw [← signed_inf]
    simp only [List.mem_cons, List.not_mem_nil, or_false] at hr
    rcases hr with rfl | rfl
    · exact fmul_of_inf (mt (isNaN_fmul_iff a b).mpr (by simp [h])) (.inl hf)
    · rw [bne_comm]
      exact fmul_of_inf (mt (isNaN_fmul_iff b a).mpr (by simp [h])) (.inr hf)
  · obtain ⟨hi, -⟩ | ⟨-, he⟩ := fsub_eq a b
    · exact absurd ((isNaN_fsub_iff a b).mpr hi) (by simp [h])
    · exact he
  · rw [isNaN_fsub_iff]
    simp [AddInvalid, signBit_fneg]
  · simp only [List.mem_cons, List.not_mem_nil, or_false] at hr
    rcases hr with rfl | rfl | rfl
    · rw [fadd_of_invalid ((isNaN_fadd_iff a b).mp h)]
      exact quiet_nanOf ..
    · obtain ⟨-, he⟩ | ⟨hi, -⟩ := fsub_eq a b
      · rw [he]
        exact quiet_nanOf ..
      · exact absurd ((isNaN_fsub_iff a b).mp h) hi
    · rw [fmul_of_invalid ((isNaN_fmul_iff a b).mp h)]
      exact quiet_nanOf ..
  · rw [feq_iff (isNaN_of_isFinite ha) (isNaN_of_isFinite hb), units_eq_iff ha hb]

end Sys2Proof.Machine
end

section
/-! SUPPORT. Vector sums (R12, R13): the leaves of the reference tree and its value. -/

namespace Sys2Proof.Machine

/-- A left-to-right tree has the leaves of its subtrees, in order. -/
theorem treeLeaves_chainTree {us : List SumTree} (h : us ≠ []) : treeLeaves (chainTree us) = us.flatMap treeLeaves := by
  cases us with
  | nil => exact absurd rfl h
  | cons t us => rw [chainTree, treeLeaves_foldl, List.flatMap_cons]

/-- A left-to-right tree adds the values of its subtrees left to right. -/
theorem treeEval_chainTree {us : List SumTree} (h : us ≠ []) (ts : List F32) :
    treeEval ts (chainTree us) = ssum (us.map (treeEval ts)) := by
  cases us with
  | nil => exact absurd rfl h
  | cons t us => rw [chainTree, treeEval_foldl, List.map_cons, ssum]

/-- The terms of lane `j` of `w`, of `n` terms. -/
def laneTerms (w n j : Nat) : List Nat := (List.range n).filter fun i => i % w = j

/-- Every lane below the number of terms has a term. -/
theorem laneTerms_ne_nil {w n j : Nat} (hj : j < min w n) : laneTerms w n j ≠ [] :=
  List.ne_nil_of_mem (a := j) (by simp [laneTerms, Nat.mod_eq_of_lt (show j < w by omega)]; omega)

theorem laneLeaves_ne_nil {w n j : Nat} (hj : j ∈ List.range (min w n)) :
    (laneTerms w n j).map SumTree.leaf ≠ [] := by
  simpa using laneTerms_ne_nil (List.mem_range.mp hj)

theorem lanes_ne_nil {α : Type} {w n : Nat} (hw : 0 < w) (hn : 0 < n) (f : Nat → α) :
    (List.range (min w n)).map f ≠ [] := by
  simp
  omega

/-- The lanes split the terms: each term is in the one lane of its residue. -/
theorem lanes_perm_range {w n : Nat} (hw : 0 < w) :
    ((List.range (min w n)).flatMap (laneTerms w n)).Perm (List.range n) := by
  rw [List.perm_ext_iff_of_nodup ?_ List.nodup_range]
  · intro i
    simp only [List.mem_flatMap, laneTerms, List.mem_filter, List.mem_range, decide_eq_true_eq]
    constructor
    · rintro ⟨-, -, hi, -⟩
      exact hi
    · intro hi
      have h1 := Nat.mod_lt i hw
      have h2 := Nat.mod_le i w
      exact ⟨i % w, by omega, hi, rfl⟩
  · rw [List.nodup_flatMap]
    refine ⟨fun j _ => List.nodup_range.filter _, List.nodup_range.imp ?_⟩
    intro j k hne i hj hk
    simp only [laneTerms, List.mem_filter, decide_eq_true_eq] at hj hk
    exact hne (hj.2.symm.trans hk.2)

/-- The reference tree has each term once. -/
theorem treeLeaves_stridedTree {w n : Nat} (hw : 0 < w) (hn : 0 < n) :
    (treeLeaves (stridedTree w n)).Perm (List.range n) := by
  rw [stridedTree, treeLeaves_chainTree (lanes_ne_nil hw hn _), List.flatMap_map]
  have lane (j : Nat) (hj : j ∈ List.range (min w n)) :
      treeLeaves (chainTree ((laneTerms w n j).map SumTree.leaf)) = laneTerms w n j := by
    rw [treeLeaves_chainTree (laneLeaves_ne_nil hj), List.flatMap_map]
    simp [treeLeaves]
  exact (List.Perm.of_eq (List.flatMap_congr lane)).trans (lanes_perm_range hw)

/-- The value of the reference tree: the lanes' sums, added in lane order. -/
theorem treeEval_stridedTree {w n : Nat} (hw : 0 < w) (hn : 0 < n) (ts : List F32) :
    treeEval ts (stridedTree w n) =
      ssum ((List.range (min w n)).map fun j => ssum ((laneTerms w n j).map fun k => ts.getD k fzero)) := by
  rw [stridedTree, treeEval_chainTree (lanes_ne_nil hw hn _), List.map_map]
  refine congrArg ssum (List.map_congr_left fun j hj => ?_)
  exact (treeEval_chainTree (laneLeaves_ne_nil hj) ts).trans (by rw [List.map_map]; rfl)

/-- The tree of a vector sum has each term once, whatever the implementation's choice. -/
theorem treeLeaves_sumTree (num : Numerics) {w : Nat} {ts : List F32} (hw : 0 < w) (hts : ts ≠ []) :
    (treeLeaves (sumTree num w ts)).Perm (List.range ts.length) := by
  have href := treeLeaves_stridedTree hw (List.length_pos_iff.mpr hts)
  cases num with
  | reference => exact href
  | implementation =>
    rw [sumTree]
    split
    · assumption
    · exact href

/-- Settles O24: the sum of one more term, the leaves of the tree in use, the value of the reference tree, the variants. -/
theorem vectorSumIsATreeOverTheTerms : Obligations.VectorSumIsATreeOverTheTerms := by
  have pos {w : Nat} (hw : w ∈ [2, 4, 8, 16]) : 0 < w := by
    simp only [List.mem_cons, List.not_mem_nil, or_false] at hw
    omega
  refine ⟨⟨ssum_singleton, fun ts u h => ?_⟩,
    fun num w ts hw hts => ⟨sumTree num w ts, treeLeaves_sumTree num (pos hw) hts, rfl⟩,
    fun w ts hw hts => treeEval_stridedTree (pos hw) (List.length_pos_iff.mpr hts) ts,
    fun num ts => ⟨rfl, fun v hv => ?_⟩, rfl⟩
  · cases ts with
    | nil => exact absurd rfl h
    | cons t ts => exact ssum_concat t u ts
  · simp only [List.mem_cons, List.not_mem_nil, or_false] at hv
    rcases hv with rfl | rfl | rfl | rfl <;> rfl

end Sys2Proof.Machine
end

section
/-! SUPPORT. The fixed-point format of the oscillator and arctangent functions in the reals: its constants, the test
`nearFix`, and the rounding of a fixed-point value to binary32. -/

namespace Sys2Proof.Machine

open Real

/-! Constants. -/

theorem fixOne_eq : fixOne = 2 ^ 340 := by
  rw [fixOne, ← pow_add]

theorem fixOne_pos : (0 : ℝ) < fixOne := by
  rw [fixOne_eq]
  positivity

/-- One unit of the format is far below the margin 2^-60. -/
theorem inv_fixOne_le : 1 / (fixOne : ℝ) ≤ 1 / 2 ^ 100 := by
  rw [fixOne_eq, Nat.cast_pow, Nat.cast_ofNat]
  exact one_div_le_one_div_of_le (by positivity) (pow_le_pow_right₀ (by norm_num) (by norm_num))

/-- The model's pi is right to twenty decimals. -/
theorem fixPi_error : |(fixPi : ℝ) / fixOne - π| ≤ 1 / 10 ^ 20 := by
  have hlo : 314159265358979323846 * fixOne ≤ 10 ^ 20 * fixPi := by norm_num [fixOne, fixPi]
  have hhi : 10 ^ 20 * fixPi ≤ 314159265358979323847 * fixOne := by norm_num [fixOne, fixPi]
  have hlo' : (314159265358979323846 : ℝ) / 10 ^ 20 ≤ fixPi / fixOne := by
    rw [div_le_div_iff₀ (by positivity) fixOne_pos, mul_comm (fixPi : ℝ)]
    exact_mod_cast hlo
  have hhi' : (fixPi : ℝ) / fixOne ≤ 314159265358979323847 / 10 ^ 20 := by
    rw [div_le_div_iff₀ fixOne_pos (by positivity), mul_comm (fixPi : ℝ)]
    exact_mod_cast hhi
  have h1 := pi_gt_d20
  have h2 := pi_lt_d20
  rw [abs_le]
  constructor <;> linarith

/-! Values. -/

theorem ratVal_cast (v : F32) : ((ratVal v : ℚ) : ℝ) = (units v : ℝ) / 2 ^ 149 := by
  rw [ratVal, Rat.cast_div, Rat.cast_intCast, Rat.cast_natCast, Nat.cast_pow, Nat.cast_ofNat]

/-- What the integer test says: the value is within the bound, plus 2^-60, of the fixed-point number. -/
theorem nearFix_error {eps : ℚ} (heps : 0 < eps) {v : F32} {c : Int} (h : nearFix eps v c = true) :
    |((ratVal v : ℚ) : ℝ) - (c : ℝ) / fixOne| ≤ (eps : ℝ) + 1 / 2 ^ 60 := by
  simp only [nearFix, Bool.and_eq_true, decide_eq_true_eq] at h
  obtain ⟨-, h⟩ := h
  have hF := fixOne_pos
  have hden : (0 : ℝ) < eps.den := by exact_mod_cast eps.den_pos
  have hnum : |(eps.num : ℝ)| / eps.den = eps := by
    rw [abs_of_pos (Int.cast_pos.mpr (Rat.num_pos.mpr heps))]
    exact_mod_cast Rat.num_div_den eps
  rw [← Nat.cast_le (α := ℝ)] at h
  simp only [Nat.cast_mul, Nat.cast_add, Nat.cast_pow, Nat.cast_ofNat, Nat.cast_natAbs, Int.cast_abs, Int.cast_sub,
    Int.cast_mul, Int.cast_natCast, Int.cast_pow, Int.cast_ofNat] at h
  have hdiff : ((ratVal v : ℚ) : ℝ) - (c : ℝ) / fixOne =
      ((units v : ℝ) * fixOne - c * 2 ^ 149) / (fixOne * 2 ^ 149) := by
    rw [ratVal_cast]
    field_simp
  have hbound : (eps : ℝ) + 1 / 2 ^ 60 =
      (|(eps.num : ℝ)| * 2 ^ 60 + eps.den) / (eps.den * 2 ^ 60) := by
    rw [← hnum]
    field_simp
  rw [hdiff, abs_div, abs_of_pos (show (0 : ℝ) < fixOne * 2 ^ 149 by positivity), hbound,
    div_le_div_iff₀ (by positivity) (by positivity)]
  exact h

/-! Rounding a fixed-point number. -/

/-- A number of at most 2^-`k` units 2^(24 + k + j) is finite when rounded, and its error is at most half a unit at last
place `j`. -/
theorem roundMag_error {m k j : Nat} (hm : m < 2 ^ (24 + k + j)) (hj : j ≤ 252) :
    roundMag m k < 0x7F800000 ∧ 2 * ((m : Int) - (magVal (roundMag m k) * 2 ^ k : Nat)).natAbs ≤ 2 ^ (k + j) := by
  have hq : lastPlace m k ≤ j := by
    rw [lastPlace]
    rcases Nat.eq_zero_or_pos m with rfl | h0
    · rw [Nat.log2_zero]
      omega
    · have := (Nat.log2_lt h0.ne').mpr hm
      omega
  have hfin : roundMag m k < 0x7F800000 := by
    have := roundEven_lastPlace_le m k
    rw [roundMag_eq]
    omega
  refine ⟨hfin, ?_⟩
  rw [magVal_roundMag hfin, Nat.mul_assoc, ← pow_add, Nat.add_comm (lastPlace m k)]
  exact (roundEven_error m _).trans (Nat.pow_le_pow_right (by norm_num) (by omega))

/-- Rounding keeps below every representable value that the number does not pass. -/
theorem magVal_roundMag_le {m k w : Nat} (h : roundMag m k < 0x7F800000) (hm : m ≤ magVal w * 2 ^ k) :
    magVal (roundMag m k) ≤ magVal w := by
  have hn := (roundMag_nearest h w).1
  by_contra hc
  have := Nat.mul_lt_mul_of_pos_right (not_le.mp hc) (show 0 < 2 ^ k by positivity)
  omega

theorem natAbs_units_signed {neg : Bool} {mag : Nat} (h : mag < 0x7F800000) :
    (units (signed neg mag)).natAbs = magVal mag := by
  rw [units_signed h]
  split <;> omega

/-- A fixed-point number below 4 rounds to a finite value. -/
theorem roundMag_fix_lt {c : Int} (hc : c.natAbs < 4 * fixOne) :
    roundMag (c.natAbs * 2 ^ 149) 340 < 0x7F800000 ∧
    2 * (((c.natAbs * 2 ^ 149 : Nat) : Int) - (magVal (roundMag (c.natAbs * 2 ^ 149) 340) * 2 ^ 340 : Nat)).natAbs ≤
      2 ^ (340 + 127) := by
  refine roundMag_error ?_ (by norm_num)
  have e : (2 : Nat) ^ (24 + 340 + 127) = 4 * fixOne * 2 ^ 149 := by
    rw [fixOne_eq, show 24 + 340 + 127 = 2 + 340 + 149 from rfl, pow_add, pow_add, show (2 : Nat) ^ 2 = 4 from rfl]
  rw [e]
  exact Nat.mul_lt_mul_of_pos_right hc (by positivity)

/-- Rounding a fixed-point number below 4 to binary32 costs at most 2^-23. -/
theorem fixToF32_error {c : Int} (hc : c.natAbs < 4 * fixOne) :
    |((ratVal (fixToF32 c) : ℚ) : ℝ) - (c : ℝ) / fixOne| ≤ 1 / 2 ^ 23 := by
  obtain ⟨hfin, herr⟩ := roundMag_fix_lt hc
  rw [← fixOne_eq, ← Nat.cast_le (α := ℝ)] at herr
  have hF := fixOne_pos
  have hd : 2 * |(units (fixToF32 c) : ℝ) * fixOne - c * 2 ^ 149| ≤ (fixOne : ℝ) * 2 ^ 127 := by
    simp only [Nat.cast_mul, Nat.cast_pow, Nat.cast_ofNat, Nat.cast_natAbs, Int.cast_abs, Int.cast_sub, Int.cast_mul,
      Int.cast_natCast, Int.cast_pow, Int.cast_ofNat, Int.cast_id] at herr
    rw [pow_add, show ((2 : ℝ) ^ 340) = fixOne by rw [fixOne_eq, Nat.cast_pow, Nat.cast_ofNat]] at herr
    refine le_trans (le_of_eq ?_) herr
    rw [fixToF32, units_signed hfin]
    rcases lt_or_ge c 0 with h | h
    · rw [if_pos (by simpa using h), abs_of_neg (Int.cast_lt_zero.mpr h), Int.cast_neg, Int.cast_natCast]
      congr 2
      ring
    · rw [if_neg (by simpa using h), abs_of_nonneg (Int.cast_nonneg h), abs_sub_comm, Int.cast_natCast]
  have hdiff : ((ratVal (fixToF32 c) : ℚ) : ℝ) - (c : ℝ) / fixOne =
      ((units (fixToF32 c) : ℝ) * fixOne - c * 2 ^ 149) / (fixOne * 2 ^ 149) := by
    rw [ratVal_cast]
    field_simp
  rw [hdiff, abs_div, abs_of_pos (show (0 : ℝ) < fixOne * 2 ^ 149 by positivity),
    div_le_div_iff₀ (by positivity) (by positivity)]
  linarith

/-- The rounding of a fixed-point number in [-1, 1] is finite and in [-1.0, 1.0]. -/
theorem inUnit_fixToF32 {c : Int} (hc : c.natAbs ≤ fixOne) : inUnit (fixToF32 c) = true := by
  have hpos : 0 < fixOne := by rw [fixOne_eq]; positivity
  have hfin := (roundMag_fix_lt (c := c) (by omega)).1
  have hone : magVal 0x3F800000 = 2 ^ 149 := by
    rw [show (0x3F800000 : Nat) = 126 * 2 ^ 23 + 2 ^ 23 from rfl, magVal_scaled (.inr le_rfl) (by norm_num), ← pow_add]
  simp only [inUnit, Bool.and_eq_true, decide_eq_true_eq]
  refine ⟨isFinite_signed hfin, ?_⟩
  rw [fixToF32, natAbs_units_signed hfin, ← hone]
  refine magVal_roundMag_le hfin ?_
  rw [hone, mul_comm, ← fixOne_eq]
  exact Nat.mul_le_mul_left _ hc

end Sys2Proof.Machine
end

section
/-! SUPPORT. The fixed-point cosine: the nested form is the Taylor polynomial of degree 48, whose remainder, the error of
the model's pi and the final rounding stay within 2^-60 (R14; log entry 4). -/

namespace Sys2Proof.Machine

open Real

/-! The nested form in the reals. -/

/-- The nested form of the cosine series. -/
noncomputable def cosNest (x : ℝ) : List ℕ → ℝ
  | [] => 1
  | k :: ks => 1 - x ^ 2 / ((2 * k - 1) * (2 * k)) * cosNest x ks

theorem cosHorner_den_pos (xn : ℕ) {xd : ℕ} (hd : 0 < xd) {ks : List ℕ} (hks : ∀ k ∈ ks, 1 ≤ k) :
    0 < (cosHorner xn xd ks).2 := by
  induction ks with
  | nil => exact Nat.one_pos
  | cons k ks ih =>
    have hk := hks k List.mem_cons_self
    have hc : 0 < (2 * k - 1) * (2 * k) := Nat.mul_pos (by omega) (by omega)
    exact Nat.mul_pos (Nat.mul_pos (Nat.mul_pos hd hd) hc) (ih fun j hj => hks j (List.mem_cons_of_mem _ hj))

/-- The model's fraction is the nested form at `xn` / `xd`. -/
theorem cosHorner_eq (xn : ℕ) {xd : ℕ} (hd : 0 < xd) {ks : List ℕ} (hks : ∀ k ∈ ks, 1 ≤ k) :
    ((cosHorner xn xd ks).1 : ℝ) / (cosHorner xn xd ks).2 = cosNest (xn / xd) ks := by
  induction ks with
  | nil => simp [cosHorner, cosNest]
  | cons k ks ih =>
    have hk := hks k List.mem_cons_self
    have hks' : ∀ j ∈ ks, 1 ≤ j := fun j hj => hks j (List.mem_cons_of_mem _ hj)
    have hden := Nat.cast_pos (α := ℝ) |>.mpr (cosHorner_den_pos xn hd hks')
    have hd' := Nat.cast_pos (α := ℝ) |>.mpr hd
    have hk1 : (0 : ℝ) < 2 * k - 1 := by
      have : (1 : ℝ) ≤ k := by exact_mod_cast hk
      linarith
    have hk2 : (0 : ℝ) < 2 * k := by linarith
    have hsub : ((2 * k - 1 : ℕ) : ℝ) = 2 * k - 1 := by
      rw [Nat.cast_sub (by omega)]
      simp
    rw [cosNest, ← ih hks', cosHorner]
    push_cast [hsub]
    field_simp

/-- From the second level on the nested form stays in [0, 1] for arguments up to 2. -/
theorem cosNest_mem_unit {x : ℝ} (hx : x ^ 2 ≤ 4) {ks : List ℕ} (hks : ∀ k ∈ ks, 2 ≤ k) :
    0 ≤ cosNest x ks ∧ cosNest x ks ≤ 1 := by
  induction ks with
  | nil => simp [cosNest]
  | cons k ks ih =>
    obtain ⟨h0, h1⟩ := ih fun j hj => hks j (List.mem_cons_of_mem _ hj)
    have hk : (2 : ℝ) ≤ k := by exact_mod_cast hks k List.mem_cons_self
    have hc : (12 : ℝ) ≤ (2 * k - 1) * (2 * k) := by nlinarith
    have hq0 : 0 ≤ x ^ 2 / ((2 * k - 1) * (2 * k)) := div_nonneg (sq_nonneg x) (by linarith)
    have hq1 : x ^ 2 / ((2 * k - 1) * (2 * k)) ≤ 1 := (div_le_one (by linarith)).mpr (by linarith)
    rw [cosNest]
    constructor
    · have := mul_le_one₀ hq1 h0 h1
      linarith
    · have := mul_nonneg hq0 h0
      linarith

/-- The model's list of levels. -/
theorem cosLevels_eq : List.range' 1 24 = 1 :: List.range' 2 23 := rfl

theorem abs_cosNest_le_one {x : ℝ} (hx : x ^ 2 ≤ 4) : |cosNest x (List.range' 1 24)| ≤ 1 := by
  obtain ⟨h0, h1⟩ := cosNest_mem_unit hx (ks := List.range' 2 23) fun k hk => (List.mem_range'_1.mp hk).1
  rw [cosLevels_eq, cosNest, Nat.cast_one, abs_le]
  have := sq_nonneg x
  constructor <;> nlinarith

/-! The Taylor polynomial. -/

/-- A term of the cosine series. -/
noncomputable def cosTerm (x : ℝ) (i : ℕ) : ℝ := (-1) ^ i * x ^ (2 * i) / (2 * i).factorial

theorem cosTerm_succ (x : ℝ) (i : ℕ) :
    cosTerm x (i + 1) = -(x ^ 2 / ((2 * (i + 1 : ℕ) - 1) * (2 * (i + 1 : ℕ)))) * cosTerm x i := by
  have hf : (0 : ℝ) < (2 * i).factorial := by exact_mod_cast (2 * i).factorial_pos
  have h1 : (0 : ℝ) < 2 * i + 1 := by positivity
  rw [cosTerm, cosTerm, show 2 * (i + 1) = 2 * i + 1 + 1 by ring, Nat.factorial_succ, Nat.factorial_succ]
  push_cast
  rw [show (2 : ℝ) * (i + 1) - 1 = 2 * i + 1 by ring]
  field_simp
  ring

/-- The nested form from level `k` + 1 on, times the term `k`, is the sum of the terms from `k` on. -/
theorem cosNest_range' (x : ℝ) (n k : ℕ) :
    cosTerm x k * cosNest x (List.range' (k + 1) n) = ∑ i ∈ Finset.range (n + 1), cosTerm x (k + i) := by
  induction n generalizing k with
  | zero => simp [cosNest]
  | succ n ih =>
    have hsum : ∑ i ∈ Finset.range (n + 1), cosTerm x (k + (i + 1)) =
        ∑ i ∈ Finset.range (n + 1), cosTerm x (k + 1 + i) :=
      Finset.sum_congr rfl fun i _ => by rw [Nat.add_right_comm, Nat.add_assoc]
    rw [Finset.sum_range_succ', hsum, ← ih (k + 1), cosTerm_succ, List.range'_succ, cosNest, add_zero k]
    ring

theorem cosNest_eq_sum (x : ℝ) : cosNest x (List.range' 1 24) = ∑ i ∈ Finset.range 25, cosTerm x i := by
  have h := cosNest_range' x 24 0
  simpa [cosTerm] using h

/-- An even term of the exponential series at `x`i is a term of the cosine series. -/
theorem exp_term_even (x : ℝ) (n : ℕ) :
    ((x : ℂ) * Complex.I) ^ (2 * n) / ((2 * n).factorial : ℂ) = (cosTerm x n : ℂ) := by
  rw [mul_pow, pow_mul Complex.I, Complex.I_sq, mul_comm ((x : ℂ) ^ _), cosTerm]
  push_cast
  rfl

/-- The real part of the exponential series at `x`i is the cosine series. -/
theorem re_sum_exp_series (x : ℝ) (n : ℕ) :
    (∑ m ∈ Finset.range (2 * n), ((x : ℂ) * Complex.I) ^ m / (m.factorial : ℂ)).re =
      ∑ i ∈ Finset.range n, cosTerm x i := by
  induction n with
  | zero => simp
  | succ n ih =>
    have hodd : ((x : ℂ) * Complex.I) ^ (2 * n + 1) / ((2 * n + 1).factorial : ℂ) =
        ((cosTerm x n * x / (2 * n + 1 : ℕ) : ℝ) : ℂ) * Complex.I := by
      rw [pow_succ, Nat.factorial_succ, Nat.cast_mul, mul_comm ((2 * n + 1 : ℕ) : ℂ), mul_div_mul_comm, exp_term_even]
      push_cast
      ring
    rw [show 2 * (n + 1) = 2 * n + 1 + 1 by ring, Finset.sum_range_succ, Finset.sum_range_succ, Complex.add_re,
      Complex.add_re, ih, Finset.sum_range_succ, exp_term_even, hodd, Complex.ofReal_re, Complex.re_ofReal_mul,
      Complex.I_re, mul_zero, add_zero]

/-- The remainder of the Taylor polynomial for arguments up to 2. -/
theorem cos_taylor_error {x : ℝ} (hx : |x| ≤ 2) : |cosNest x (List.range' 1 24) - cos x| ≤ 1 / 2 ^ 100 := by
  have hnorm : ‖(x : ℂ) * Complex.I‖ = |x| := by simp
  have h := Complex.exp_bound' (x := x * Complex.I) (n := 50) (by
    rw [hnorm]
    push_cast
    linarith)
  have hre := (Complex.abs_re_le_norm _).trans h
  rw [Complex.sub_re, Complex.exp_ofReal_mul_I_re, show (50 : ℕ) = 2 * 25 from rfl, re_sum_exp_series,
    ← cosNest_eq_sum, abs_sub_comm, hnorm] at hre
  refine hre.trans ?_
  have hpow : |x| ^ (2 * 25) ≤ 2 ^ (2 * 25) := pow_le_pow_left₀ (abs_nonneg x) hx _
  have hfac : (2 : ℝ) ^ (2 * 25) / (2 * 25).factorial * 2 ≤ 1 / 2 ^ 100 := by
    norm_num [Nat.factorial]
  refine le_trans ?_ hfac
  gcongr

/-! Fixed point. -/

/-- An integer quotient, rounded down, is within one of the quotient. -/
theorem int_ediv_error (n : ℤ) (d : ℕ) : |((n / d : ℤ) : ℝ) - n / d| ≤ 1 := by
  have hfl : n / (d : ℤ) = ⌊(n : ℝ) / d⌋ := by
    rw [← Rat.cast_intCast, ← Rat.cast_natCast, ← Rat.cast_div, Rat.floor_cast, Rat.floor_intCast_div_natCast]
  have hlo := Int.sub_one_lt_floor ((n : ℝ) / d)
  have hhi := Int.floor_le ((n : ℝ) / d)
  rw [hfl, abs_le]
  constructor <;> linarith

/-- One unit of the format is below the margin. -/
theorem div_fixOne_error {u v : ℝ} (h : |u - v| ≤ 1) : |u / fixOne - v / fixOne| ≤ 1 / 2 ^ 100 := by
  rw [← sub_div, abs_div, abs_of_pos fixOne_pos]
  exact (div_le_div_of_nonneg_right h fixOne_pos.le).trans inv_fixOne_le

/-- Rounding a quotient down to fixed point costs less than one unit of the format. -/
theorem fixed_floor_error (n : ℤ) (d : ℕ) :
    |((n * fixOne / d : ℤ) : ℝ) / fixOne - n / d| ≤ 1 / 2 ^ 100 := by
  have h := div_fixOne_error (int_ediv_error (n * fixOne) d)
  rwa [Int.cast_mul, Int.cast_natCast, div_right_comm, mul_div_cancel_right₀ _ fixOne_pos.ne'] at h

/-- The angle of a quarter-turn argument, with the model's pi. -/
noncomputable def fixAngle (a : ℕ) : ℝ := ((a * fixPi : ℕ) : ℝ) / ((2 ^ 31 * fixOne : ℕ) : ℝ)

theorem fixAngle_eq (a : ℕ) : fixAngle a = a / 2 ^ 31 * (fixPi / fixOne) := by
  rw [fixAngle, Nat.cast_mul, Nat.cast_mul, Nat.cast_pow, Nat.cast_ofNat, mul_div_mul_comm]

theorem fixAngle_error {a : ℕ} (ha : a ≤ 2 ^ 30) : |fixAngle a - π * a / 2 ^ 31| ≤ 1 / 10 ^ 20 := by
  have ha' : (a : ℝ) / 2 ^ 31 ≤ 1 := by
    rw [div_le_one (by positivity)]
    have : (a : ℝ) ≤ 2 ^ 30 := by exact_mod_cast ha
    linarith
  have e : fixAngle a - π * a / 2 ^ 31 = a / 2 ^ 31 * (fixPi / fixOne - π) := by
    rw [fixAngle_eq]
    ring
  rw [e, abs_mul, abs_of_nonneg (by positivity)]
  exact (mul_le_of_le_one_left (abs_nonneg _) ha').trans fixPi_error

theorem abs_fixAngle_le {a : ℕ} (ha : a ≤ 2 ^ 30) : |fixAngle a| ≤ 2 := by
  have ha' : (a : ℝ) ≤ 2 ^ 30 := by exact_mod_cast ha
  have h := abs_le.mp (fixAngle_error ha)
  have hpi := pi_lt_d2
  have h0 : 0 ≤ π * a / 2 ^ 31 := by positivity
  have h1 : π * a / 2 ^ 31 ≤ 3.15 / 2 := by
    rw [div_le_div_iff₀ (by positivity) (by positivity)]
    nlinarith [pi_pos]
  rw [abs_le]
  constructor <;> linarith

theorem two_pow_mul_fixOne_pos : 0 < 2 ^ 31 * fixOne := by
  rw [fixOne_eq]
  positivity

theorem cosLevels_pos : ∀ k ∈ List.range' 1 24, 1 ≤ k := fun _ hk => (List.mem_range'_1.mp hk).1

theorem fixCosQuarter_eq (a : ℕ) : fixCosQuarter a =
    (cosHorner (a * fixPi) (2 ^ 31 * fixOne) (List.range' 1 24)).1 * fixOne /
      ((cosHorner (a * fixPi) (2 ^ 31 * fixOne) (List.range' 1 24)).2 : ℕ) := rfl

/-- The cosine of a quarter-turn argument, in fixed point. -/
theorem fixCosQuarter_error {a : ℕ} (ha : a ≤ 2 ^ 30) :
    |(fixCosQuarter a : ℝ) / fixOne - cos (π * a / 2 ^ 31)| ≤ 1 / 2 ^ 60 := by
  have hfloor := fixed_floor_error (cosHorner (a * fixPi) (2 ^ 31 * fixOne) (List.range' 1 24)).1
    (cosHorner (a * fixPi) (2 ^ 31 * fixOne) (List.range' 1 24)).2
  rw [cosHorner_eq (a * fixPi) two_pow_mul_fixOne_pos cosLevels_pos, ← fixAngle, ← fixCosQuarter_eq] at hfloor
  have htaylor := cos_taylor_error (abs_fixAngle_le ha)
  have hangle := (abs_cos_sub_cos_le _ _).trans (fixAngle_error ha)
  rw [abs_le] at *
  constructor <;> linarith

/-- The fixed-point cosine of a quarter-turn argument is in [-1, 1]. -/
theorem natAbs_fixCosQuarter_le {a : ℕ} (ha : a ≤ 2 ^ 30) : (fixCosQuarter a).natAbs ≤ fixOne := by
  have hpos := cosHorner_den_pos (a * fixPi) two_pow_mul_fixOne_pos cosLevels_pos
  have h := abs_cosNest_le_one (x := fixAngle a) (by
    have := pow_le_pow_left₀ (abs_nonneg _) (abs_fixAngle_le ha) 2
    rw [sq_abs] at this
    linarith)
  rw [fixAngle, ← cosHorner_eq (a * fixPi) two_pow_mul_fixOne_pos cosLevels_pos, abs_div, Nat.abs_cast,
    div_le_one (Nat.cast_pos.mpr hpos), ← Int.cast_abs] at h
  have h' : |(cosHorner (a * fixPi) (2 ^ 31 * fixOne) (List.range' 1 24)).1| ≤
      ((cosHorner (a * fixPi) (2 ^ 31 * fixOne) (List.range' 1 24)).2 : ℕ) := by exact_mod_cast h
  rw [fixCosQuarter_eq]
  generalize (cosHorner (a * fixPi) (2 ^ 31 * fixOne) (List.range' 1 24)).1 = n at *
  generalize (cosHorner (a * fixPi) (2 ^ 31 * fixOne) (List.range' 1 24)).2 = d at *
  obtain ⟨hlo, hhi⟩ := abs_le.mp h'
  have hd : (0 : ℤ) < d := by exact_mod_cast hpos
  have hF : (0 : ℤ) ≤ fixOne := Int.natCast_nonneg _
  have hup : n * fixOne / d ≤ fixOne := Int.ediv_le_of_le_mul hd (by nlinarith)
  have hdown : -(fixOne : ℤ) ≤ n * fixOne / d := (Int.le_ediv_iff_mul_le hd).mpr (by nlinarith)
  omega

/-! Every phase. -/

/-- A phase folded into the first half turn. -/
def foldPhase (p : ℕ) : ℕ := if p % 2 ^ 32 ≤ 2 ^ 31 then p % 2 ^ 32 else 2 ^ 32 - p % 2 ^ 32

theorem foldPhase_le (p : ℕ) : foldPhase p ≤ 2 ^ 31 := by
  rw [foldPhase]
  split <;> omega

theorem fixCos_eq (p : ℕ) :
    fixCos p = if foldPhase p ≤ 2 ^ 30 then fixCosQuarter (foldPhase p)
      else -fixCosQuarter (2 ^ 31 - foldPhase p) := rfl

theorem cos_phase_mod (p : ℕ) : cos (2 * π * p / 2 ^ 32) = cos (2 * π * (p % 2 ^ 32 : ℕ) / 2 ^ 32) := by
  have hp : (p : ℝ) = 2 ^ 32 * (p / 2 ^ 32 : ℕ) + (p % 2 ^ 32 : ℕ) := by
    exact_mod_cast (Nat.div_add_mod p (2 ^ 32)).symm
  have e : 2 * π * p / 2 ^ 32 = 2 * π * (p % 2 ^ 32 : ℕ) / 2 ^ 32 + (p / 2 ^ 32 : ℕ) * (2 * π) := by
    rw [hp]
    ring
  rw [e, cos_add_nat_mul_two_pi]

theorem cos_foldPhase (p : ℕ) : cos (2 * π * p / 2 ^ 32) = cos (π * foldPhase p / 2 ^ 31) := by
  have hlt : p % 2 ^ 32 ≤ 2 ^ 32 := (Nat.mod_lt p (by norm_num)).le
  rw [cos_phase_mod, foldPhase]
  generalize p % 2 ^ 32 = q at *
  split
  · congr 1
    ring
  · rw [← cos_two_pi_sub, Nat.cast_sub hlt]
    congr 1
    push_cast
    ring

/-- The fixed-point cosine is right to 2^-60 at every phase. -/
theorem fixCos_error (p : ℕ) : |(fixCos p : ℝ) / fixOne - cos (2 * π * p / 2 ^ 32)| ≤ 1 / 2 ^ 60 := by
  rw [fixCos_eq, cos_foldPhase]
  have hle := foldPhase_le p
  generalize foldPhase p = h at *
  split
  · exact fixCosQuarter_error (by assumption)
  · have hq := fixCosQuarter_error (a := 2 ^ 31 - h) (by omega)
    have e : π * ((2 ^ 31 - h : ℕ) : ℝ) / 2 ^ 31 = π - π * h / 2 ^ 31 := by
      rw [Nat.cast_sub hle]
      push_cast
      ring
    rw [e, cos_pi_sub] at hq
    rw [Int.cast_neg, neg_div, abs_sub_comm]
    refine le_trans (le_of_eq ?_) hq
    congr 1
    ring

/-- The fixed-point cosine is in [-1, 1]. -/
theorem natAbs_fixCos_le (p : ℕ) : (fixCos p).natAbs ≤ fixOne := by
  have hle := foldPhase_le p
  rw [fixCos_eq]
  split
  · exact natAbs_fixCosQuarter_le (by assumption)
  · rw [Int.natAbs_neg]
    exact natAbs_fixCosQuarter_le (by omega)

/-- The sine is the cosine three quarter turns on. -/
theorem sin_phase (p : ℕ) : sin (2 * π * p / 2 ^ 32) = cos (2 * π * (p + 3 * 2 ^ 30 : ℕ) / 2 ^ 32) := by
  have e : 2 * π * (p + 3 * 2 ^ 30 : ℕ) / 2 ^ 32 = 2 * π * p / 2 ^ 32 - π / 2 + 2 * π := by
    push_cast
    ring
  rw [e, cos_add_two_pi, cos_sub_pi_div_two]

end Sys2Proof.Machine
end

section
/-! SUPPORT. The oscillator functions: the axis phases, the range, the accuracy (R14). -/

namespace Sys2Proof.Machine

open Real

/-! Constants. -/

theorem units_fzero : units fzero = 0 := rfl

theorem units_fone : units fone = 2 ^ 149 := by decide +kernel

theorem units_fnegOne : units fnegOne = -2 ^ 149 := by decide +kernel

theorem ratVal_fzero : ((ratVal fzero : ℚ) : ℝ) = 0 := by
  rw [ratVal_cast, units_fzero]
  simp

theorem ratVal_fone : ((ratVal fone : ℚ) : ℝ) = 1 := by
  rw [ratVal_cast, units_fone]
  norm_num

theorem ratVal_fnegOne : ((ratVal fnegOne : ℚ) : ℝ) = -1 := by
  rw [ratVal_cast, units_fnegOne]
  norm_num

/-! Range. -/

theorem inUnit_axisCos (q : ℕ) : inUnit (axisCos q) = true := by
  unfold axisCos
  split <;> decide +kernel

theorem inUnit_axisSin (q : ℕ) : inUnit (axisSin q) = true := by
  unfold axisSin
  split <;> decide +kernel

/-- Off the axes: the implementation's value where the rule allows it, else the reference value. -/
theorem boundedTrig_cases (P : Params) (raw : F32) (c : ℤ) :
    (boundedTrig P raw c = raw ∧ inUnit raw = true ∧ nearFix P.ncoEps raw c = true) ∨
      boundedTrig P raw c = fixToF32 c := by
  unfold boundedTrig
  split
  · exact .inr rfl
  · split
    · rename_i h
      rw [Bool.and_eq_true] at h
      exact .inl ⟨rfl, h.1, h.2⟩
    · exact .inr rfl

theorem inUnit_boundedTrig (P : Params) (raw : F32) {c : ℤ} (hc : c.natAbs ≤ fixOne) :
    inUnit (boundedTrig P raw c) = true := by
  obtain ⟨h, hu, -⟩ | h := boundedTrig_cases P raw c
  · rw [h, hu]
  · rw [h, inUnit_fixToF32 hc]

theorem inUnit_ncoCos (P : Params) (p : Word) : inUnit (ncoCos P p) = true := by
  unfold ncoCos
  split
  · exact inUnit_axisCos _
  · exact inUnit_boundedTrig P _ (natAbs_fixCos_le _)

theorem inUnit_ncoSin (P : Params) (p : Word) : inUnit (ncoSin P p) = true := by
  unfold ncoSin
  split
  · exact inUnit_axisSin _
  · exact inUnit_boundedTrig P _ (natAbs_fixCos_le _)

theorem inUnit_iff (v : F32) : inUnit v = true ↔ isFinite v = true ∧ (units v).natAbs ≤ 2 ^ 149 := by
  rw [inUnit, Bool.and_eq_true, decide_eq_true_eq]

/-- Settles O25: the axis values by their definition, the range by that of the fixed-point cosine. -/
theorem oscillatorAxesAndRange : Obligations.OscillatorAxesAndRange := by
  refine fun P => ⟨⟨rfl, rfl, rfl, rfl, rfl, rfl, rfl, rfl⟩, fun p => ?_⟩
  obtain ⟨hcf, hcu⟩ := (inUnit_iff _).mp (inUnit_ncoCos P p)
  obtain ⟨hsf, hsu⟩ := (inUnit_iff _).mp (inUnit_ncoSin P p)
  exact ⟨hcf, hcu, hsf, hsu⟩

/-! Accuracy. -/

/-- At a multiple of a quarter turn the angle is that many right angles. -/
theorem axis_angle {p : ℕ} (h : p % 2 ^ 30 = 0) : 2 * π * p / 2 ^ 32 = (p / 2 ^ 30 : ℕ) * (π / 2) := by
  have hp : (p : ℝ) = 2 ^ 30 * (p / 2 ^ 30 : ℕ) := by
    exact_mod_cast (show p = 2 ^ 30 * (p / 2 ^ 30) by omega)
  rw [hp]
  ring

theorem axisCos_exact {q : ℕ} (hq : q < 4) : ((ratVal (axisCos q) : ℚ) : ℝ) = cos (q * (π / 2)) := by
  interval_cases q
  · simp [axisCos, ratVal_fone]
  · simp [axisCos, ratVal_fzero]
  · rw [Nat.cast_ofNat, mul_div_cancel₀ _ (by norm_num), cos_pi]
    exact ratVal_fnegOne
  · rw [show ((3 : ℕ) : ℝ) * (π / 2) = π / 2 + π by push_cast; ring, cos_add_pi, cos_pi_div_two, neg_zero]
    exact ratVal_fzero

theorem axisSin_exact {q : ℕ} (hq : q < 4) : ((ratVal (axisSin q) : ℚ) : ℝ) = sin (q * (π / 2)) := by
  interval_cases q
  · simp [axisSin, ratVal_fzero]
  · simp [axisSin, ratVal_fone]
  · rw [Nat.cast_ofNat, mul_div_cancel₀ _ (by norm_num), sin_pi]
    exact ratVal_fzero
  · rw [show ((3 : ℕ) : ℝ) * (π / 2) = π / 2 + π by push_cast; ring, sin_add_pi, sin_pi_div_two]
    exact ratVal_fnegOne

/-- A value within the bound of a fixed-point number that is itself right to 2^-60 is within the bound plus 2^-59. -/
theorem accuracy_of_fixed {v c t eps : ℝ} (hv : |v - c| ≤ eps + 1 / 2 ^ 60) (hc : |c - t| ≤ 1 / 2 ^ 60) :
    |v - t| ≤ eps + 1 / 2 ^ 59 := by
  have h := abs_sub_le v c t
  have e : (1 : ℝ) / 2 ^ 60 + 1 / 2 ^ 60 = 1 / 2 ^ 59 := by norm_num
  linarith

/-- The least bound, as a real. -/
theorem least_le_cast {eps : ℚ} (h : 1 / 2 ^ 22 ≤ eps) : (1 : ℝ) / 2 ^ 22 ≤ eps := by
  have h' := (Rat.cast_le (K := ℝ)).mpr h
  rwa [Rat.cast_div, Rat.cast_one, Rat.cast_pow, Rat.cast_ofNat] at h'

/-- The rounding of a fixed-point number meets every bound the statements ask for. -/
theorem fixToF32_within {eps : ℚ} (heps : 1 / 2 ^ 22 ≤ eps) {c : ℤ} (hc : c.natAbs < 4 * fixOne) :
    |((ratVal (fixToF32 c) : ℚ) : ℝ) - (c : ℝ) / fixOne| ≤ (eps : ℝ) + 1 / 2 ^ 60 := by
  have heps' := least_le_cast heps
  have h := fixToF32_error hc
  have : (1 : ℝ) / 2 ^ 23 ≤ 1 / 2 ^ 22 + 1 / 2 ^ 60 := by norm_num
  linarith

theorem eps_pos {eps : ℚ} (h : 1 / 2 ^ 22 ≤ eps) : 0 < eps := lt_of_lt_of_le (by norm_num) h

theorem boundedTrig_accuracy {P : Params} (heps : 1 / 2 ^ 22 ≤ P.ncoEps) (raw : F32) (p : ℕ) :
    |((ratVal (boundedTrig P raw (fixCos p)) : ℚ) : ℝ) - cos (2 * π * p / 2 ^ 32)| ≤ (P.ncoEps : ℝ) + 1 / 2 ^ 59 := by
  refine accuracy_of_fixed ?_ (fixCos_error p)
  obtain ⟨h, -, hn⟩ | h := boundedTrig_cases P raw (fixCos p)
  · rw [h]
    exact nearFix_error (eps_pos heps) hn
  · rw [h]
    refine fixToF32_within heps (lt_of_le_of_lt (natAbs_fixCos_le p) ?_)
    have : 0 < fixOne := by exact_mod_cast fixOne_pos
    omega

/-- An exact value is within any bound. -/
theorem accuracy_of_eq {v t : ℝ} {eps : ℚ} (heps : 1 / 2 ^ 22 ≤ eps) (h : v = t) :
    |v - t| ≤ (eps : ℝ) + 1 / 2 ^ 59 := by
  have : (0 : ℝ) < eps := by exact_mod_cast eps_pos heps
  rw [h, sub_self, abs_zero]
  positivity

/-- Settles O26: exact on the axes, elsewhere near the fixed-point cosine, which is right to 2^-60. -/
theorem oscillatorAccuracy : Obligations.OscillatorAccuracy := by
  intro P p heps
  have hq : p.toNat / 2 ^ 30 < 4 := by
    have := p.isLt
    omega
  constructor
  · unfold ncoCos
    split
    · rename_i h
      exact accuracy_of_eq heps (by rw [axis_angle h, axisCos_exact hq])
    · exact boundedTrig_accuracy heps _ _
  · unfold ncoSin
    split
    · rename_i h
      exact accuracy_of_eq heps (by rw [axis_angle h, axisSin_exact hq])
    · rw [sin_phase]
      exact boundedTrig_accuracy heps _ _

end Sys2Proof.Machine
end

section
/-! SUPPORT. The fixed-point arctangent: the nested form is the arctangent series to its fiftieth term, and the four
quadrants are those of the argument of a complex number (R15; log entry 5). -/

namespace Sys2Proof.Machine

open Real

/-! The nested form in the reals. -/

/-- The nested form of the arctangent series, divided by its argument. -/
noncomputable def atanNest (u : ℝ) : List ℕ → ℝ
  | [] => 0
  | k :: ks => 1 / (2 * k + 1) - u ^ 2 * atanNest u ks

theorem atanHorner_den_pos (un : ℕ) {ud : ℕ} (hd : 0 < ud) (ks : List ℕ) : 0 < (atanHorner un ud ks).2 := by
  induction ks with
  | nil => exact Nat.one_pos
  | cons k ks ih => exact Nat.mul_pos (Nat.mul_pos (Nat.succ_pos _) (Nat.mul_pos hd hd)) ih

/-- The model's fraction is the nested form at `un` / `ud`. -/
theorem atanHorner_eq (un : ℕ) {ud : ℕ} (hd : 0 < ud) (ks : List ℕ) :
    ((atanHorner un ud ks).1 : ℝ) / (atanHorner un ud ks).2 = atanNest (un / ud) ks := by
  induction ks with
  | nil => simp [atanHorner, atanNest]
  | cons k ks ih =>
    have hden := Nat.cast_pos (α := ℝ) |>.mpr (atanHorner_den_pos un hd ks)
    have hd' := Nat.cast_pos (α := ℝ) |>.mpr hd
    have hk : (0 : ℝ) < 2 * k + 1 := by positivity
    rw [atanNest, ← ih, atanHorner]
    push_cast
    field_simp

/-! The series. -/

/-- The magnitude of a term of the arctangent series. -/
noncomputable def atanTerm (u : ℝ) (i : ℕ) : ℝ := u ^ (2 * i + 1) / (2 * i + 1 : ℕ)

/-- The nested form from level `k` on, times the power of level `k`, is the alternating sum of the terms from `k` on. -/
theorem atanNest_range' (u : ℝ) (n k : ℕ) :
    u ^ (2 * k + 1) * atanNest u (List.range' k n) = ∑ i ∈ Finset.range n, (-1) ^ i * atanTerm u (k + i) := by
  induction n generalizing k with
  | zero => simp [atanNest]
  | succ n ih =>
    have hsum : ∑ i ∈ Finset.range n, (-1) ^ (i + 1) * atanTerm u (k + (i + 1)) =
        -∑ i ∈ Finset.range n, (-1) ^ i * atanTerm u (k + 1 + i) := by
      rw [← Finset.sum_neg_distrib]
      refine Finset.sum_congr rfl fun i _ => ?_
      rw [Nat.add_right_comm k 1 i, Nat.add_assoc, pow_succ]
      ring
    have hterm : (-1) ^ 0 * atanTerm u (k + 0) = u ^ (2 * k + 1) * (1 / (2 * k + 1)) := by
      rw [atanTerm, pow_zero, one_mul, add_zero k]
      push_cast
      ring
    rw [Finset.sum_range_succ', hsum, hterm, ← ih (k + 1), List.range'_succ, atanNest]
    ring

theorem mul_atanNest_eq_sum (u : ℝ) :
    u * atanNest u (List.range 50) = ∑ i ∈ Finset.range 50, (-1) ^ i * atanTerm u i := by
  have h := atanNest_range' u 50 0
  rw [← List.range_eq_range'] at h
  simpa using h

theorem antitone_atanTerm {u : ℝ} (h0 : 0 ≤ u) (h1 : u ≤ 1) : Antitone (atanTerm u) := by
  intro i j hij
  have hpow : u ^ (2 * j + 1) ≤ u ^ (2 * i + 1) := pow_le_pow_of_le_one h0 h1 (by omega)
  have hden : ((2 * i + 1 : ℕ) : ℝ) ≤ (2 * j + 1 : ℕ) := by exact_mod_cast (by omega : 2 * i + 1 ≤ 2 * j + 1)
  exact div_le_div₀ (pow_nonneg h0 _) hpow (by positivity) hden

/-- Fifty terms of the arctangent series for arguments up to one half: the remainder is at most the next term. -/
theorem atan_series_error {u : ℝ} (h0 : 0 ≤ u) (h1 : u ≤ 1 / 2) :
    |u * atanNest u (List.range 50) - arctan u| ≤ 1 / 2 ^ 100 := by
  have hsum : HasSum (fun i => (-1) ^ i * atanTerm u i) (arctan u) := by
    have h := hasSum_arctan (x := u) (by rw [norm_of_nonneg h0]; linarith)
    simpa only [atanTerm, mul_div_assoc] using h
  have hsummable : Summable (atanTerm u) := by
    refine hsum.summable.abs.congr fun i => ?_
    rw [abs_mul, abs_neg_one_pow, one_mul, 
      abs_of_nonneg (show 0 ≤ atanTerm u i from div_nonneg (pow_nonneg h0 _) (Nat.cast_nonneg _))]
  have h := alternating_series_error_bound (atanTerm u) (antitone_atanTerm h0 (by linarith)) hsummable 50
  rw [hsum.tsum_eq, ← mul_atanNest_eq_sum, abs_sub_comm] at h
  refine h.trans ?_
  have hpow : u ^ (2 * 50 + 1) ≤ (1 / 2) ^ (2 * 50 + 1) := pow_le_pow_left₀ h0 h1 _
  calc atanTerm u 50 ≤ (1 / 2) ^ (2 * 50 + 1) / (2 * 50 + 1 : ℕ) := div_le_div_of_nonneg_right hpow (Nat.cast_nonneg _)
    _ ≤ 1 / 2 ^ 100 := by norm_num

/-! Fixed point, first quadrant. -/

theorem fixAtanSmall_eq (un ud : ℕ) : fixAtanSmall un ud =
    un * (atanHorner un ud (List.range 50)).1 * fixOne / ((ud * (atanHorner un ud (List.range 50)).2 : ℕ) : ℤ) := rfl

/-- The arctangent of a quotient up to one half, in fixed point. -/
theorem fixAtanSmall_error {un ud : ℕ} (hd : 0 < ud) (h : 2 * un ≤ ud) :
    |(fixAtanSmall un ud : ℝ) / fixOne - arctan (un / ud)| ≤ 1 / 2 ^ 99 := by
  have hd' := Nat.cast_pos (α := ℝ) |>.mpr hd
  have hfloor := fixed_floor_error (un * (atanHorner un ud (List.range 50)).1)
    (ud * (atanHorner un ud (List.range 50)).2)
  rw [← fixAtanSmall_eq, Int.cast_mul, Int.cast_natCast, Nat.cast_mul, mul_div_mul_comm, atanHorner_eq un hd] at hfloor
  have hhalf : (un : ℝ) / ud ≤ 1 / 2 := by
    rw [div_le_div_iff₀ hd' (by norm_num)]
    exact_mod_cast (by omega : un * 2 ≤ 1 * ud)
  have hseries := atan_series_error (u := (un : ℝ) / ud) (by positivity) hhalf
  have e : (1 : ℝ) / 2 ^ 100 + 1 / 2 ^ 100 = 1 / 2 ^ 99 := by norm_num
  rw [abs_le] at *
  constructor <;> linarith

/-- A fraction of the model's pi, rounded down. -/
theorem fixPi_div_error (k : ℕ) (hk : 1 ≤ k) : |((fixPi / k : ℤ) : ℝ) / fixOne - π / k| ≤ 2 / 10 ^ 20 := by
  have hk' : (1 : ℝ) ≤ k := by exact_mod_cast hk
  have h := div_fixOne_error (int_ediv_error fixPi k)
  have hpi : |(fixPi : ℝ) / k / fixOne - π / k| ≤ 1 / 10 ^ 20 := by
    rw [div_right_comm, ← sub_div, abs_div, Nat.abs_cast]
    exact (div_le_self (abs_nonneg _) hk').trans fixPi_error
  have hsum : (1 : ℝ) / 2 ^ 100 + 1 / 10 ^ 20 ≤ 2 / 10 ^ 20 := by norm_num
  rw [Int.cast_natCast] at h
  exact (abs_sub_le _ _ _).trans ((add_le_add h hpi).trans hsum)

/-- The arctangent of a quotient between one half and one through that of its complement. -/
theorem arctan_complement {a b : ℝ} (ha : 0 < a) (hab : a ≤ b) :
    π / 4 - arctan ((b - a) / (b + a)) = arctan (a / b) := by
  have hb : 0 < b := lt_of_lt_of_le ha hab
  have hxy : a / b * ((b - a) / (b + a)) < 1 := by
    rw [div_mul_div_comm, div_lt_one (by positivity)]
    nlinarith
  have hone : (a / b + (b - a) / (b + a)) / (1 - a / b * ((b - a) / (b + a))) = 1 := by
    rw [div_eq_one_iff_eq (by linarith)]
    field_simp
    ring
  have h := arctan_add hxy
  rw [hone, arctan_one] at h
  linarith

/-- The arctangent of a quotient up to one, in fixed point. -/
theorem fixAtan_error {a b : ℕ} (hb : 0 < b) (hab : a ≤ b) :
    |(fixAtan a b : ℝ) / fixOne - arctan (a / b)| ≤ 3 / 10 ^ 20 := by
  have hsmall : (1 : ℝ) / 2 ^ 99 ≤ 1 / 10 ^ 20 := by norm_num
  unfold fixAtan
  split
  · exact (fixAtanSmall_error hb (by assumption)).trans (hsmall.trans (by norm_num))
  · have hpi := fixPi_div_error 4 (by norm_num)
    have h := fixAtanSmall_error (un := b - a) (ud := b + a) (by omega) (by omega)
    rw [Nat.cast_sub hab, Nat.cast_add] at h
    rw [← arctan_complement (by exact_mod_cast (by omega : 0 < a)) (by exact_mod_cast hab), Int.cast_sub, sub_div]
    push_cast at hpi ⊢
    rw [abs_le] at *
    constructor <;> linarith

/-- The angle of the first quadrant as the model folds it, in fixed point. -/
def fixFirst (a b : ℕ) : ℤ := if a ≤ b then fixAtan a b else fixPi / 2 - fixAtan b a

/-- The argument of a number with positive real part. -/
theorem arg_of_re_pos {b : ℝ} (a : ℝ) (hb : 0 < b) : Complex.arg ⟨b, a⟩ = arctan (a / b) := by
  have hlt := abs_lt.mp (Complex.abs_arg_lt_pi_div_two_iff.mpr (.inl (show 0 < (⟨b, a⟩ : ℂ).re from hb)))
  rw [← arctan_tan hlt.1 hlt.2, Complex.tan_arg]

theorem fixFirst_error {a b : ℕ} (h : a ≠ 0 ∨ b ≠ 0) :
    |(fixFirst a b : ℝ) / fixOne - Complex.arg ⟨b, a⟩| ≤ 5 / 10 ^ 20 := by
  unfold fixFirst
  split
  · rename_i hab
    have hb : 0 < b := by omega
    rw [arg_of_re_pos _ (Nat.cast_pos.mpr hb)]
    exact (fixAtan_error hb hab).trans (by norm_num)
  · rename_i hab
    have ha : 0 < a := by omega
    have harg : Complex.arg ⟨b, a⟩ = π / 2 - arctan (b / a) := by
      rcases Nat.eq_zero_or_pos b with rfl | hb
      · rw [Nat.cast_zero, zero_div, arctan_zero, sub_zero, Complex.arg_eq_pi_div_two_iff]
        exact ⟨rfl, Nat.cast_pos.mpr ha⟩
      · rw [arg_of_re_pos _ (Nat.cast_pos.mpr hb), ← arctan_inv_of_pos (by positivity), inv_div]
    have hpi := fixPi_div_error 2 (by norm_num)
    have h := fixAtan_error ha (le_of_not_ge hab)
    rw [harg, Int.cast_sub, sub_div]
    push_cast at hpi ⊢
    rw [abs_le] at *
    constructor <;> linarith

/-! Four quadrants. -/

/-- Reflection in the imaginary axis, above the real one. -/
theorem arg_neg_re {x y : ℝ} (hy : 0 < y) : Complex.arg ⟨-x, y⟩ = π - Complex.arg ⟨x, y⟩ := by
  have hne : Complex.arg ⟨x, y⟩ ≠ π := fun h => hy.ne' (Complex.arg_eq_pi_iff.mp h).2
  have hconj := Complex.arg_conj ⟨x, y⟩
  rw [if_neg hne] at hconj
  have hneg := Complex.arg_neg_eq_arg_sub_pi_of_im_pos (x := ⟨-x, y⟩) hy
  have e : -(⟨-x, y⟩ : ℂ) = (starRingEnd ℂ) ⟨x, y⟩ := by
    apply Complex.ext <;> simp
  rw [e, hconj] at hneg
  linarith

/-- Reflection in the real axis, off it. -/
theorem arg_neg_im {x y : ℝ} (hy : 0 < y) : Complex.arg ⟨x, -y⟩ = -Complex.arg ⟨x, y⟩ := by
  have hne : Complex.arg ⟨x, y⟩ ≠ π := fun h => hy.ne' (Complex.arg_eq_pi_iff.mp h).2
  have hconj := Complex.arg_conj ⟨x, y⟩
  rw [if_neg hne] at hconj
  rw [← hconj]
  rfl

/-- The angle of the upper half plane as the model folds it, in fixed point. -/
def fixHalf (a : ℕ) (x : ℤ) : ℤ := if x < 0 then fixPi - fixFirst a x.natAbs else fixFirst a x.natAbs

theorem fixAtan2_eq (y x : ℤ) : fixAtan2 y x = if y < 0 then -fixHalf y.natAbs x else fixHalf y.natAbs x := rfl

theorem fixHalf_error {a : ℕ} {x : ℤ} (h : 0 < a ∨ 0 < x) :
    |(fixHalf a x : ℝ) / fixOne - Complex.arg ⟨x, a⟩| ≤ 7 / 10 ^ 20 := by
  have hfirst := fixFirst_error (a := a) (b := x.natAbs) (by omega)
  unfold fixHalf
  split
  · rename_i hx
    have hcast : (x : ℝ) = -(x.natAbs : ℝ) := by
      rw [Nat.cast_natAbs, abs_of_neg hx, Int.cast_neg, neg_neg]
    have hpi := fixPi_error
    rw [hcast, arg_neg_re (by exact_mod_cast (by omega : 0 < a)), Int.cast_sub, sub_div, Int.cast_natCast]
    rw [abs_le] at *
    constructor <;> linarith
  · rename_i hx
    have hcast : (x : ℝ) = (x.natAbs : ℝ) := by
      rw [Nat.cast_natAbs, abs_of_nonneg (by omega)]
    rw [hcast]
    exact hfirst.trans (by norm_num)

/-- The four-quadrant arctangent, in fixed point, off the negative real axis. -/
theorem fixAtan2_error {y x : ℤ} (h : y ≠ 0 ∨ 0 < x) :
    |(fixAtan2 y x : ℝ) / fixOne - Complex.arg ⟨x, y⟩| ≤ 1 / 2 ^ 60 := by
  have hhalf := (fixHalf_error (a := y.natAbs) (x := x) (by omega)).trans
    (show (7 : ℝ) / 10 ^ 20 ≤ 1 / 2 ^ 60 by norm_num)
  rw [fixAtan2_eq]
  split
  · rename_i hy
    have hcast : (y : ℝ) = -(y.natAbs : ℝ) := by
      rw [Nat.cast_natAbs, abs_of_neg hy, Int.cast_neg, neg_neg]
    rw [hcast, arg_neg_im (by exact_mod_cast (by omega : 0 < y.natAbs)), Int.cast_neg, neg_div, ← neg_sub', abs_neg]
    exact hhalf
  · have hcast : (y : ℝ) = (y.natAbs : ℝ) := by
      rw [Nat.cast_natAbs, abs_of_nonneg (by omega)]
    rw [hcast]
    exact hhalf

/-- The fixed-point arctangent is below 4. -/
theorem natAbs_fixAtan2_lt {y x : ℤ} (h : y ≠ 0 ∨ 0 < x) : (fixAtan2 y x).natAbs < 4 * fixOne := by
  have herr := fixAtan2_error h
  have hpi := pi_lt_d2
  have harg := Complex.abs_arg_le_pi ⟨x, y⟩
  have hlt : |(fixAtan2 y x : ℝ) / fixOne| < 4 := by
    have := abs_sub_abs_le_abs_sub ((fixAtan2 y x : ℝ) / fixOne) (Complex.arg ⟨x, y⟩)
    have : (1 : ℝ) / 2 ^ 60 < 1 / 2 := by norm_num
    linarith
  rw [abs_div, abs_of_pos fixOne_pos, div_lt_iff₀ fixOne_pos, ← Int.cast_abs, ← Nat.cast_natAbs] at hlt
  exact_mod_cast hlt

end Sys2Proof.Machine
end

section
/-! SUPPORT. The arctangent function case by case (R15): a NaN operand, the open operands, the anchor values, the free
end of the range, the bounded value. -/

namespace Sys2Proof.Machine

open Real

/-! One equation for each case of the operands. -/

theorem atan2_of_isNaN (P : Params) {y x : F32} (h : isNaN y = true ∨ isNaN x = true) :
    atan2 P y x = nanOf .atan2 y x := by
  rcases h with h | h <;> simp [atan2, h]

/-- The operands the rule leaves open: an infinity, or two zeros other than (+0.0, +0.0). -/
def OpenOperands (y x : F32) : Prop :=
  isFinite y = false ∨ isFinite x = false ∨ (isZero y = true ∧ isZero x = true ∧ ¬(y = fzero ∧ x = fzero))

/-- The model's test for them. -/
theorem openOperands_iff (y x : F32) :
    (!isFinite y || !isFinite x || (isZero y && isZero x && !(y = fzero && x = fzero))) = true ↔ OpenOperands y x := by
  simp [OpenOperands, or_assoc, and_assoc, -not_and, not_and_or]

theorem not_isNaN_operands {y x : F32} (hy : isNaN y = false) (hx : isNaN x = false) :
    ¬(isNaN y || isNaN x) = true := by
  simp [hy, hx]

theorem atan2_of_open (P : Params) {y x : F32} (hy : isNaN y = false) (hx : isNaN x = false) (h : OpenOperands y x) :
    (openAngle (Config.atan2Raw y x) = true ∧ atan2 P y x = Config.atan2Raw y x) ∨ atan2 P y x = fzero := by
  have he : atan2 P y x = if openAngle (Config.atan2Raw y x) then Config.atan2Raw y x else fzero := by
    rw [atan2, if_neg (not_isNaN_operands hy hx), if_pos ((openOperands_iff y x).mpr h)]
  rw [he]
  split
  · exact .inl ⟨by assumption, rfl⟩
  · exact .inr rfl

/-- The operands the rule settles: finite, and not two zeros other than (+0.0, +0.0). -/
structure Settled (y x : F32) : Prop where
  finite_y : isFinite y = true
  finite_x : isFinite x = true
  zeros : ¬(isZero y = true ∧ isZero x = true ∧ ¬(y = fzero ∧ x = fzero))

theorem Settled.not_isNaN {y x : F32} (h : Settled y x) : ¬(isNaN y || isNaN x) = true :=
  not_isNaN_operands (isNaN_of_isFinite h.finite_y) (isNaN_of_isFinite h.finite_x)

theorem Settled.not_open {y x : F32} (h : Settled y x) :
    ¬(!isFinite y || !isFinite x || (isZero y && isZero x && !(y = fzero && x = fzero))) = true := by
  rw [openOperands_iff]
  rintro (h' | h' | h')
  · exact absurd h.finite_y (by simp [h'])
  · exact absurd h.finite_x (by simp [h'])
  · exact h.zeros h'

theorem settled_zero_left {x : F32} (hx : isFinite x = true) (h : signBit x = false ∨ isZero x = false) :
    Settled fzero x := by
  refine ⟨rfl, hx, fun ⟨_, hz, hne⟩ => ?_⟩
  rcases h with h | h
  · exact hne ⟨rfl, eq_of_signBit_of_low h ((isZero_iff x).mp hz)⟩
  · exact absurd hz (by simp [h])

theorem settled_of_not_isZero {y x : F32} (hy : isFinite y = true) (hx : isFinite x = true)
    (h : ¬(isZero y = true ∧ isZero x = true)) : Settled y x :=
  ⟨hy, hx, fun ⟨hzy, hzx, _⟩ => h ⟨hzy, hzx⟩⟩

theorem ne_fzero_of_not_isZero {y : F32} (h : isZero y = false) : y ≠ fzero := by
  rintro rfl
  exact absurd h (by decide)

/-- The anchor value on the positive real axis. -/
theorem atan2_zero_of_nonneg (P : Params) {x : F32} (hx : isFinite x = true) (hs : signBit x = false) :
    atan2 P fzero x = fzero := by
  have h := settled_zero_left hx (.inl hs)
  rw [atan2, if_neg h.not_isNaN, if_neg h.not_open, if_pos rfl]
  simp [hs]

/-- The anchor value on the negative real axis. -/
theorem atan2_zero_of_neg (P : Params) {x : F32} (hx : isFinite x = true) (hs : signBit x = true)
    (hz : isZero x = false) : atan2 P fzero x = f32Pi := by
  have h := settled_zero_left hx (.inr hz)
  rw [atan2, if_neg h.not_isNaN, if_neg h.not_open, if_pos rfl]
  simp [hs, hz]

/-- The anchor values on the imaginary axis. -/
theorem atan2_of_zero_right (P : Params) {y x : F32} (hy : isFinite y = true) (hzy : isZero y = false)
    (hzx : isZero x = true) : atan2 P y x = if signBit y then fneg f32HalfPi else f32HalfPi := by
  have h := settled_of_not_isZero hy (isFinite_of_isZero hzx) (by simp [hzy])
  rw [atan2, if_neg h.not_isNaN, if_neg h.not_open, if_neg (ne_fzero_of_not_isZero hzy), if_pos hzx]

/-- y = -0.0 with x < 0: one of the two ends of the range. -/
theorem atan2_negZero_of_neg (P : Params) {x : F32} (hx : isFinite x = true) (hs : signBit x = true)
    (hz : isZero x = false) : atan2 P 0x80000000 x = f32Pi ∨ atan2 P 0x80000000 x = fneg f32Pi := by
  have h := settled_of_not_isZero (y := 0x80000000) rfl hx (by simp [hz])
  rw [atan2, if_neg h.not_isNaN, if_neg h.not_open, if_neg (by decide), if_neg (by simp [hz]),
    if_pos (by rw [hs]; decide)]
  cases P.numerics
  · dsimp only
    split
    · exact .inl rfl
    · exact .inr rfl
  · exact .inr rfl

/-- Elsewhere: the implementation's value where it is near, the rounded fixed-point value, or a zero where that is 0. -/
theorem atan2_bounded (P : Params) {y x : F32} (hy : isFinite y = true) (hx : isFinite x = true) (hne : y ≠ fzero)
    (hzx : isZero x = false) (hn : ¬(isZero y = true ∧ signBit x = true)) :
    (atan2 P y x = Config.atan2Raw y x ∧
      nearFix P.atanEps (Config.atan2Raw y x) (fixAtan2 (units y) (units x)) = true) ∨
    atan2 P y x = fixToF32 (fixAtan2 (units y) (units x)) ∨
    (isZero y = true ∧ isZero (atan2 P y x) = true) := by
  have h := settled_of_not_isZero hy hx (by simp [hzx])
  rw [atan2, if_neg h.not_isNaN, if_neg h.not_open, if_neg hne, if_neg (by simp [hzx]), if_neg (by simpa using hn)]
  cases P.numerics <;> dsimp only
  · split
    · exact .inl ⟨rfl, by assumption⟩
    · exact .inr (.inl rfl)
  · split
    · rename_i h
      rw [Bool.and_eq_true] at h
      exact .inr (.inr h)
    · exact .inr (.inl rfl)

/-- An open angle is a NaN or in the range. -/
theorem openAngle_cases {v : F32} (h : openAngle v = true) :
    isNaN v = true ∨ (isFinite v = true ∧ (units v).natAbs ≤ (units f32Pi).natAbs) := by
  simp only [openAngle, Bool.or_eq_true, Bool.and_eq_true, decide_eq_true_eq] at h
  exact h.imp And.left id

/-- Settles O27, one clause for each case of the operands. -/
theorem arctangentAnchorsAndOpenCases : Obligations.ArctangentAnchorsAndOpenCases := by
  refine fun P y x => ⟨atan2_zero_of_nonneg P, atan2_zero_of_neg P, fun hy hzy hzx => ?_, fun hx hs hz => ?_,
    fun h => ?_, fun h => ?_⟩
  · rw [atan2_of_zero_right P hy hzy hzx]
    rfl
  · exact atan2_negZero_of_neg P hx hs hz
  · rw [atan2_of_isNaN P h]
    exact isNaN_nanOf ..
  · by_cases hn : isNaN y = true ∨ isNaN x = true
    · rw [atan2_of_isNaN P hn]
      exact .inl (isNaN_nanOf ..)
    simp only [not_or, Bool.not_eq_true] at hn
    have hzero : isNaN fzero = true ∨ (isFinite fzero = true ∧ (units fzero).natAbs ≤ (units f32Pi).natAbs) :=
      .inr ⟨rfl, Nat.zero_le _⟩
    by_cases ho : OpenOperands y x
    · obtain ⟨hr, he⟩ | he := atan2_of_open P hn.1 hn.2 ho
      · rw [he]
        exact openAngle_cases hr
      · rw [he]
        exact hzero
    · obtain ⟨hzy, hzx⟩ := (h.resolve_left fun e => ho (.inl e)).resolve_left fun e => ho (.inr (.inl e))
      obtain ⟨rfl, rfl⟩ := by_contra fun hne => ho (.inr (.inr ⟨hzy, hzx, hne⟩))
      rw [atan2_zero_of_nonneg P rfl rfl]
      exact hzero

/-! Accuracy. -/

/-- The argument does not see the unit of the values. -/
theorem arg_ratVal (y x : F32) :
    Complex.arg ⟨((ratVal x : ℚ) : ℝ), ((ratVal y : ℚ) : ℝ)⟩ = Complex.arg ⟨(units x : ℝ), (units y : ℝ)⟩ := by
  have hr : (0 : ℝ) < 1 / 2 ^ 149 := by positivity
  rw [← Complex.arg_real_mul ⟨(units x : ℝ), (units y : ℝ)⟩ hr, ratVal_cast, ratVal_cast]
  congr 1
  apply Complex.ext
  · rw [Complex.re_ofReal_mul, one_div_mul_eq_div]
  · rw [Complex.im_ofReal_mul, one_div_mul_eq_div]

theorem ratVal_of_isZero {v : F32} (h : isZero v = true) : ((ratVal v : ℚ) : ℝ) = 0 := by
  rw [ratVal_cast, (units_eq_zero_iff (isFinite_of_isZero h)).mpr h]
  simp

theorem units_f32Pi : units f32Pi = 13176795 * 2 ^ 127 := by decide +kernel

theorem units_f32HalfPi : units f32HalfPi = 13176795 * 2 ^ 126 := by decide +kernel

/-- binary32's pi is within the least bound. -/
theorem f32Pi_error : |((ratVal f32Pi : ℚ) : ℝ) - π| ≤ 1 / 2 ^ 22 := by
  have e : ((ratVal f32Pi : ℚ) : ℝ) = 13176795 / 2 ^ 22 := by
    rw [ratVal_cast, units_f32Pi]
    norm_num
  have h1 := pi_gt_d20
  have h2 := pi_lt_d20
  rw [e, abs_le]
  constructor <;> linarith

theorem f32HalfPi_error : |((ratVal f32HalfPi : ℚ) : ℝ) - π / 2| ≤ 1 / 2 ^ 22 := by
  have e : ((ratVal f32HalfPi : ℚ) : ℝ) = 13176795 / 2 ^ 23 := by
    rw [ratVal_cast, units_f32HalfPi]
    norm_num
  have h1 := pi_gt_d20
  have h2 := pi_lt_d20
  rw [e, abs_le]
  constructor <;> linarith

theorem ratVal_fneg (v : F32) : ((ratVal (fneg v) : ℚ) : ℝ) = -((ratVal v : ℚ) : ℝ) := by
  rw [ratVal_cast, ratVal_cast, units_fneg, Int.cast_neg, neg_div]

/-- A value within the least bound is within every bound. -/
theorem accuracy_of_least {v t : ℝ} {eps : ℚ} (heps : 1 / 2 ^ 22 ≤ eps) (h : |v - t| ≤ 1 / 2 ^ 22) :
    |v - t| ≤ (eps : ℝ) + 1 / 2 ^ 59 := by
  have heps' := least_le_cast heps
  have : (0 : ℝ) < 1 / 2 ^ 59 := by positivity
  linarith

/-- On the real axis. -/
theorem atan2_zero_accuracy {P : Params} (heps : 1 / 2 ^ 22 ≤ P.atanEps) {x : F32} (hx : isFinite x = true)
    (hz : isZero x = false) :
    |((ratVal (atan2 P fzero x) : ℚ) : ℝ) - Complex.arg ⟨(units x : ℝ), (units fzero : ℝ)⟩| ≤
      (P.atanEps : ℝ) + 1 / 2 ^ 59 := by
  rw [units_fzero, Int.cast_zero]
  cases hs : signBit x
  · have hpos : 0 ≤ units x := not_lt.mp (mt (units_neg_iff hx hz).mp (by simp [hs]))
    rw [atan2_zero_of_nonneg P hx hs]
    exact accuracy_of_eq heps (by
      rw [ratVal_fzero, Complex.arg_eq_zero_iff.mpr ⟨Int.cast_nonneg hpos, rfl⟩])
  · have hneg := (units_neg_iff hx hz).mpr hs
    rw [atan2_zero_of_neg P hx hs hz, Complex.arg_eq_pi_iff.mpr ⟨Int.cast_lt_zero.mpr hneg, rfl⟩]
    exact accuracy_of_least heps f32Pi_error

/-- On the imaginary axis. -/
theorem atan2_zero_right_accuracy {P : Params} (heps : 1 / 2 ^ 22 ≤ P.atanEps) {y x : F32} (hy : isFinite y = true)
    (hzy : isZero y = false) (hzx : isZero x = true) :
    |((ratVal (atan2 P y x) : ℚ) : ℝ) - Complex.arg ⟨(units x : ℝ), (units y : ℝ)⟩| ≤
      (P.atanEps : ℝ) + 1 / 2 ^ 59 := by
  refine accuracy_of_least heps ?_
  have hne := (units_eq_zero_iff hy).not.mpr (by simp [hzy])
  rw [atan2_of_zero_right P hy hzy hzx, (units_eq_zero_iff (isFinite_of_isZero hzx)).mpr hzx, Int.cast_zero]
  cases hs : signBit y
  · have hpos : 0 < units y := by
      have := mt (units_neg_iff hy hzy).mp (by simp [hs])
      omega
    rw [Complex.arg_eq_pi_div_two_iff.mpr ⟨rfl, Int.cast_pos.mpr hpos⟩]
    exact f32HalfPi_error
  · have hneg := (units_neg_iff hy hzy).mpr hs
    rw [Complex.arg_eq_neg_pi_div_two_iff.mpr ⟨rfl, Int.cast_lt_zero.mpr hneg⟩, if_pos rfl, ratVal_fneg, ← neg_sub',
      abs_neg]
    exact f32HalfPi_error

/-- Off both axes, and on the positive real axis with y = -0.0. -/
theorem atan2_bounded_accuracy {P : Params} (heps : 1 / 2 ^ 22 ≤ P.atanEps) {y x : F32} (hy : isFinite y = true)
    (hx : isFinite x = true) (hne : y ≠ fzero) (hzx : isZero x = false) (hn : ¬(isZero y = true ∧ signBit x = true)) :
    |((ratVal (atan2 P y x) : ℚ) : ℝ) - Complex.arg ⟨(units x : ℝ), (units y : ℝ)⟩| ≤
      (P.atanEps : ℝ) + 1 / 2 ^ 59 := by
  have hx0 := (units_eq_zero_iff hx).not.mpr (by simp [hzx])
  have hxpos : isZero y = true → 0 < units x := fun hz => by
    have := mt (units_neg_iff hx hzx).mp fun h => hn ⟨hz, h⟩
    omega
  have hquad : units y ≠ 0 ∨ 0 < units x := by
    by_cases hz : isZero y = true
    · exact .inr (hxpos hz)
    · exact .inl ((units_eq_zero_iff hy).not.mpr hz)
  obtain ⟨he, hnear⟩ | he | ⟨hzy, hz⟩ := atan2_bounded P hy hx hne hzx hn
  · rw [he]
    exact accuracy_of_fixed (nearFix_error (eps_pos heps) hnear) (fixAtan2_error hquad)
  · rw [he]
    exact accuracy_of_fixed (fixToF32_within heps (natAbs_fixAtan2_lt hquad)) (fixAtan2_error hquad)
  · refine accuracy_of_eq heps ?_
    rw [ratVal_of_isZero hz, (units_eq_zero_iff hy).mpr hzy, Int.cast_zero,
      Complex.arg_eq_zero_iff.mpr ⟨Int.cast_nonneg (hxpos hzy).le, rfl⟩]

/-- Settles O28: the axes by their anchor values, everything else near the fixed-point arctangent, which is right to
2^-60. -/
theorem arctangentAccuracy : Obligations.ArctangentAccuracy := by
  intro P y x heps hy hx hzz hneg
  rw [arg_ratVal]
  by_cases hy0 : y = fzero
  · subst hy0
    exact atan2_zero_accuracy heps hx (by simpa [show isZero fzero = true from rfl] using hzz)
  · cases hzx : isZero x
    · refine atan2_bounded_accuracy heps hy hx hy0 hzx fun ⟨hzy, hs⟩ => ?_
      cases hsy : signBit y
      · exact hy0 (eq_of_signBit_of_low hsy ((isZero_iff y).mp hzy))
      · exact hneg ⟨eq_of_signBit_of_low hsy ((isZero_iff y).mp hzy), hs⟩
    · exact atan2_zero_right_accuracy heps hy (by simpa [hzx] using hzz) hzx

end Sys2Proof.Machine
end

section
/-! SUPPORT. The step: it runs the decoded command (R18), it always goes on and takes back nothing (R92, R40); and the
invariant after reset. -/

namespace Sys2Proof.Machine

/-! The one possible step. -/

theorem step_of_single {s : State} {c : Choice} (h : choices s = [c]) : step s = takeChoice s c := by
  rw [step, advance, h]

theorem runPacket_of_decode {s : State} {p : Packet} {i : Instr} (h : decode p = .ok i) : runPacket s p = exec i s := by
  rw [runPacket, h]

theorem issueAt_of_get {s : State} {j : Nat} {p : Packet} (h : s.cmd[j]? = some p) :
    issueAt s j = runPacket { s with cmd := s.cmd.eraseIdx j } p := by
  rw [issueAt, h]

/-- One packet and no drain between its phases: the packet is the one possible step. -/
theorem choices_of_one_packet {s : State} {p : Packet} (h : s.cmd = [p]) (hd : drainingChannels s = []) :
    choices s = [.issue 0] := by
  rw [choices, hd, heldByDrains_nil hd, h]
  simp [readyFrom]

/-- Settles O5, by the definition of the step where one step is possible. -/
theorem stepRunsTheDecodedCommand : Obligations.StepRunsTheDecodedCommand := by
  refine ⟨fun s j p i hc hp hd => ?_, fun s p => choices_of_one_packet, fun s c hc => step_of_single hc⟩
  rw [step_of_single hc, takeChoice, issueAt_of_get hp, runPacket_of_decode hd]

/-! What every command and step keeps. -/

/-- From `s` to `t` the parameters are the same and what was emitted stays emitted. -/
structure GoesOn (s t : State) : Prop where
  params : t.params = s.params
  rsp : s.rsp <+: t.rsp
  notif : s.notif <+: t.notif

theorem GoesOn.refl (s : State) : GoesOn s s := ⟨rfl, List.prefix_rfl, List.prefix_rfl⟩

theorem GoesOn.trans {s t u : State} (h : GoesOn s t) (h' : GoesOn t u) : GoesOn s u :=
  ⟨h'.params.trans h.params, h.rsp.trans h'.rsp, h.notif.trans h'.notif⟩

/-- A change of units alone. -/
theorem GoesOn.of_eq {s t : State} (hp : t.params = s.params) (hr : t.rsp = s.rsp) (hn : t.notif = s.notif) :
    GoesOn s t := ⟨hp, hr ▸ List.prefix_rfl, hn ▸ List.prefix_rfl⟩

theorem GoesOn.respond {s t : State} (h : GoesOn s t) (e : Status) (n : Nat) (ws : List Word) :
    GoesOn s (t.respond e n ws) := ⟨h.params, h.rsp.trans (List.prefix_append _ _), h.notif⟩

/-- A change of units alone, then notifications. -/
theorem GoesOn.emit {s t : State} {es : List Event} {c : Inst} (hp : t.params = s.params) (hr : t.rsp = s.rsp)
    (hn : t.notif = s.notif) : GoesOn s (t.emit es c) :=
  ⟨hp, hr ▸ List.prefix_rfl, hn ▸ List.prefix_append _ _⟩

/-- A change of units alone, then an answer. -/
theorem GoesOn.answer {s t : State} {n : Nat} {ws : List Word} (hp : t.params = s.params) (hr : t.rsp = s.rsp)
    (hn : t.notif = s.notif) : GoesOn s (t.answer n ws) := (GoesOn.of_eq hp hr hn).respond .ok n ws

theorem GoesOn.raise (s : State) (e : Status) (id : CmdId) : GoesOn s (s.raise e id) :=
  (GoesOn.of_eq (s := s) (t := s.logError e id) rfl rfl rfl).respond e 0 []

/-- The outcome is a next state, reached so. -/
abbrev AlwaysNext (s : State) (o : Host.Outcome State Fault Refusal) : Prop := ∃ t, o = .next t ∧ GoesOn s t

theorem AlwaysNext.command {s t : State} {id : CmdId} {cs : List (Bool × Status)} (h : GoesOn s t) :
    AlwaysNext s (s.command id cs t) := by
  cases he : firstError cs with
  | none => exact ⟨t, command_ok he, h⟩
  | some e => exact ⟨_, command_error he, .raise s e id⟩

theorem copSubmitStep_goesOn (s : State) (c : Inst) (b : Block) : GoesOn s (copSubmitStep s c b) := by
  obtain ⟨-, h⟩ | ⟨-, h⟩ := copSubmitStep_cases s c b
  · rw [h]
    split
    · exact .answer rfl rfl rfl
    · refine GoesOn.respond ?_ .ok 0 []
      exact .emit rfl rfl rfl
  · rw [h]
    exact .answer rfl rfl rfl

theorem drainDequeue_goesOn (s : State) (c : Inst) (m : Nat) : GoesOn s (drainDequeue s c m) := by
  obtain ⟨-, h⟩ | ⟨-, h⟩ := drainDequeue_cases s c m
  · rw [h]
    exact .emit rfl rfl rfl
  · rw [h]
    exact .of_eq rfl rfl rfl

theorem drainBlock_goesOn (c : Inst) (a : State × List OutBlock) (b : Block) : GoesOn a.1 (drainBlock c a b).1 := by
  obtain ⟨s, out⟩ := a
  obtain ⟨-, h⟩ | ⟨-, h⟩ := drainBlock_cases c s out b
  · rw [h]
    exact .of_eq rfl rfl rfl
  · rw [h]
    exact .emit rfl rfl rfl

theorem drainBlocks_goesOn (c : Inst) (a : State × List OutBlock) (bs : List Block) :
    GoesOn a.1 (bs.foldl (drainBlock c) a).1 := by
  induction bs generalizing a with
  | nil => exact .refl _
  | cons b bs ih => exact (drainBlock_goesOn c a b).trans (ih _)

theorem finishDrain_goesOn (s : State) (c : Inst) : GoesOn s (finishDrain s c) :=
  (drainBlocks_goesOn c (s, []) ((s.cop.at c).inflight.getD [])).trans (.answer rfl rfl rfl)

theorem dbiAdvance_goesOn (s : State) (i : Inst) : GoesOn s (dbiAdvance s i) := by
  unfold dbiAdvance
  dsimp only
  split
  · split <;> exact .answer rfl rfl rfl
  · exact .answer rfl rfl rfl

theorem execSysRdreg_next (i : Inst) (rk : BitVec 4) (n : BitVec 8) (s : State) :
    AlwaysNext s (execSysRdreg i rk n s) := by
  obtain ⟨-, h⟩ | ⟨_, v, -, h⟩ := execSysRdreg_cases i rk n s
  · exact ⟨_, h, .raise ..⟩
  · exact ⟨_, h, .answer rfl rfl rfl⟩

theorem writeSys_next (s : State) (id : CmdId) (n : Nat) (v : Word) : AlwaysNext s (writeSys s id n v) := by
  obtain h | ⟨-, h⟩ | ⟨_, _, -, -, h⟩ := writeSys_cases s id n v
  · exact ⟨_, h, .raise ..⟩
  · exact ⟨_, h, .answer rfl rfl rfl⟩
  · exact ⟨_, h, .answer rfl rfl rfl⟩

theorem writeCop_next (s : State) (id : CmdId) (i : Inst) (n : Nat) (v : Word) :
    AlwaysNext s (writeCop s id i n v) := by
  obtain ⟨_, -, h⟩ | ⟨-, -, h⟩ | ⟨-, -, h⟩ := writeCop_cases s id i n v
  · exact ⟨_, h, .raise ..⟩
  · exact ⟨_, h, .answer rfl rfl rfl⟩
  · exact ⟨_, h, .answer rfl rfl rfl⟩

theorem execSysWrreg_next (i : Inst) (rk : BitVec 4) (n : BitVec 8) (v : Word) (s : State) :
    AlwaysNext s (execSysWrreg i rk n v s) := by
  unfold execSysWrreg
  dsimp only
  split
  · exact ⟨_, rfl, .raise ..⟩
  · exact writeSys_next ..
  · exact writeCop_next ..
  · exact ⟨_, rfl, .raise ..⟩

/-- Every command answers a next state and goes on: most change units and answer; the others are named above. -/
theorem exec_next (i : Instr) (s : State) : AlwaysNext s (exec i s) :=
  match i with
  | .sysNop | .sysReset => ⟨_, rfl, .answer rfl rfl rfl⟩
  | .sysRdreg .. => execSysRdreg_next ..
  | .sysWrreg .. => execSysWrreg_next ..
  | .dbiNext a => .command (dbiAdvance_goesOn s a)
  | .copSubmit .. => .command (copSubmitStep_goesOn ..)
  | .copDrain .. => .command (drainDequeue_goesOn ..)
  | .firrLoad .. | .firrProc .. | .firrClr _ | .fircLoad .. | .fircProc .. | .fircClr _ | .hbrLoad .. | .hbrProc ..
  | .hbrClr _ | .hbcLoad .. | .hbcProc .. | .hbcClr _ | .hilLoad .. | .hilProc .. | .hilClr _ | .dcrLoad ..
  | .dcrProc .. | .dcrClr _ | .ncoLoad .. | .ncoGen .. | .ncoClr _ | .mixLoad _ | .mixProc .. | .fmdLoad _
  | .fmdProc .. | .fmdClr _ | .dbiOpen .. | .dbiClr _ | .dbiResid _ | .copOpen .. | .copDetach _ =>
    .command (.answer rfl rfl rfl)

theorem runPacket_next (s : State) (p : Packet) : AlwaysNext s (runPacket s p) := by
  unfold runPacket
  split
  · exact exec_next ..
  · exact ⟨_, rfl, .raise ..⟩

theorem takeChoice_next (s : State) (c : Choice) : AlwaysNext s (takeChoice s c) := by
  cases c with
  | finish c => exact ⟨_, rfl, finishDrain_goesOn s c⟩
  | issue j =>
    rw [takeChoice, issueAt]
    split
    · exact ⟨s, rfl, .refl s⟩
    · obtain ⟨t, ht, h⟩ := runPacket_next { s with cmd := s.cmd.eraseIdx j } ‹Packet›
      exact ⟨t, ht, h.params, h.rsp, h.notif⟩

theorem step_next (s : State) : AlwaysNext s (step s) := by
  unfold step advance
  split
  · exact ⟨s, rfl, .refl s⟩
  · exact takeChoice_next ..
  · obtain ⟨t, ht, h⟩ := takeChoice_next { s with picks := s.picks + 1 } _
    exact ⟨t, ht, h.params, h.rsp, h.notif⟩

/-- Settles O11, command by command (`exec_next`) and over the choices of a step (`step_next`). -/
theorem everyStepGoesOn : Obligations.EveryStepGoesOn := by
  refine ⟨fun i s => (exec_next i s).imp fun _ h => h.1, fun s => ?_⟩
  obtain ⟨t, ht, h⟩ := step_next s
  exact ⟨t, ht, h.params, h.rsp, h.notif⟩

/-! Reset. -/

/-- Every unit in its reset state meets the invariant, whatever the ports hold. -/
theorem cleared_inv {P : Params} (h : P.Ok) (cmd : List Packet) (rsp : List (List Word)) (notif : List Word)
    (picks : Nat) : (State.cleared P cmd rsp notif picks).Inv where
  params := h
  sys := ⟨by simp [State.cleared, Sys.reset], Nat.two_pow_pos 18, fun k => .inl (by simp [State.cleared, Sys.reset])⟩
  firr i := by simp [State.cleared, FirOk, Fir.reset]
  firc i := by simp [State.cleared, FirOk, Fir.reset]
  hbr i := by simp [State.cleared, HbOk, Hb.reset]
  hbc i := by simp [State.cleared, HbOk, Hb.reset]
  hil i := by simp [State.cleared, HilOk, Hil.reset]
  dcr i := by simp [State.cleared, DcrOk, Dcr.reset]
  nco i := by simp [State.cleared, NcoOk, Nco.reset]
  mix i := by simp [State.cleared, MixOk, Mix.reset]
  fmd i := by simp [State.cleared, FmdOk, Fmd.reset]
  dbi i := by simp [State.cleared, DbiOk, Dbi.reset]
  cop i := by simp [State.cleared, CopOk, Cop.reset]
  pastEnd i := by simp [State.cleared, PastEndOk]

theorem default_ok : Params.default.Ok := by
  decide +kernel

/-- Settles O19: both resets put every unit in its reset state. -/
theorem resetMeetsInvariant : Obligations.ResetMeetsInvariant :=
  ⟨cleared_inv default_ok [] [] [] 0, fun s h => cleared_inv h [] s.rsp s.notif s.picks⟩

end Sys2Proof.Machine
end

section
/-! SUPPORT. What a command does, said once for two states at a time: the slots it replaces, its event and its answer
are the same in every two states that agree on what it may read (R20). From one lemma over the commands follow what a
command writes, what it reads, and what it leaves of the error record, the iterators and the queues. -/

namespace Sys2Proof.Machine

/-! Effects. -/

/-- One slot replaced. -/
inductive Put where
  | sys (u : Sys)
  | firr (i : Inst) (u : Fir F32)
  | firc (i : Inst) (u : Fir Cplx)
  | hbr (i : Inst) (u : Hb F32)
  | hbc (i : Inst) (u : Hb Cplx)
  | hil (i : Inst) (u : Hil)
  | dcr (i : Inst) (u : Dcr)
  | nco (i : Inst) (u : Nco)
  | mix (i : Inst) (u : Mix)
  | fmd (i : Inst) (u : Fmd)
  | dbi (i : Inst) (u : Dbi)
  | cop (i : Inst) (u : Cop)

/-- The slot it replaces. -/
@[simp] def Put.slot : Put → Kind × Inst
  | .sys _ => (.sys, 0)
  | .firr i _ => (.firr, i)
  | .firc i _ => (.firc, i)
  | .hbr i _ => (.hbr, i)
  | .hbc i _ => (.hbc, i)
  | .hil i _ => (.hil, i)
  | .dcr i _ => (.dcr, i)
  | .nco i _ => (.nco, i)
  | .mix i _ => (.mix, i)
  | .fmd i _ => (.fmd, i)
  | .dbi i _ => (.dbi, i)
  | .cop i _ => (.cop, i)

/-- The state with the slot replaced. -/
def State.store (s : State) : Put → State
  | .sys u => s.putSys u
  | .firr i u => s.putFirr i u
  | .firc i u => s.putFirc i u
  | .hbr i u => s.putHbr i u
  | .hbc i u => s.putHbc i u
  | .hil i u => s.putHil i u
  | .dcr i u => s.putDcr i u
  | .nco i u => s.putNco i u
  | .mix i u => s.putMix i u
  | .fmd i u => s.putFmd i u
  | .dbi i u => s.putDbi i u
  | .cop i u => s.putCop i u

@[simp] theorem State.store_rsp (s : State) (p : Put) : (s.store p).rsp = s.rsp := by cases p <;> rfl

@[simp] theorem State.store_notif (s : State) (p : Put) : (s.store p).notif = s.notif := by cases p <;> rfl

theorem SameSlot.refl (s : State) (k : Kind) (i : Inst) : SameSlot s s k i := by cases k <;> rfl

theorem SameSlot.trans {s t u : State} {k : Kind} {i : Inst} (h : SameSlot s t k i) (h' : SameSlot t u k i) :
    SameSlot s u k i := by cases k <;> exact Eq.trans h h'

theorem SameSlot.symm {s t : State} {k : Kind} {i : Inst} (h : SameSlot s t k i) : SameSlot t s k i := by
  cases k <;> exact Eq.symm h

/-- A slot replaced leaves every other one: the law of its own bank, or another field of the state. -/
theorem sameSlot_store_ne (s : State) {p : Put} {k : Kind} {i : Inst} (hk : k ≠ .sys) (h : (k, i) ≠ p.slot) :
    SameSlot s (s.store p) k i := by
  cases p <;> cases k <;> first
    | rfl
    | exact absurd rfl hk
    | exact (Bank.at_put_ne _ _ fun e => h (by rw [e, Put.slot])).symm

/-- The same slot replaced alike keeps what two states share. -/
theorem SameSlot.store {s t : State} {k : Kind} {i : Inst} (h : SameSlot s t k i) (p : Put) :
    SameSlot (s.store p) (t.store p) k i := by
  cases p <;> cases k <;> first
    | exact h
    | rfl
    | exact (Bank.at_put ..).trans ((congrArg _ h).trans (Bank.at_put ..).symm)

/-- What a command that raises nothing does: slots replaced in turn, at most one event, at most one answer. -/
structure Effect where
  puts : List Put
  event : Option (Event × Inst)
  answer : Option (Nat × List Word)

/-- Notifications of an optional event. -/
def State.emitOpt (s : State) : Option (Event × Inst) → State
  | none => s
  | some (e, c) => s.emit [e] c

/-- An optional answer. -/
def State.answerOpt (s : State) : Option (Nat × List Word) → State
  | none => s
  | some (n, ws) => s.answer n ws

/-- The state after an effect. -/
def State.affect (s : State) (e : Effect) : State := ((e.puts.foldl State.store s).emitOpt e.event).answerOpt e.answer

/-- The responses of an effect. -/
def Effect.rsp (e : Effect) : List (List Word) := e.answer.toList.map fun a => responseWord .ok a.1 :: a.2

/-- The notifications of an effect. -/
def Effect.notif (e : Effect) : List Word := e.event.toList.map fun a => eventWord a.1 a.2

theorem foldl_store_rsp (ps : List Put) (s : State) : (ps.foldl State.store s).rsp = s.rsp := by
  induction ps generalizing s with
  | nil => rfl
  | cons p ps ih => rw [List.foldl_cons, ih, State.store_rsp]

theorem foldl_store_notif (ps : List Put) (s : State) : (ps.foldl State.store s).notif = s.notif := by
  induction ps generalizing s with
  | nil => rfl
  | cons p ps ih => rw [List.foldl_cons, ih, State.store_notif]

theorem affect_rsp (s : State) (e : Effect) : (s.affect e).rsp = s.rsp ++ e.rsp := by
  obtain ⟨ps, _ | ev, _ | a⟩ := e <;>
    simp [State.affect, State.answerOpt, State.emitOpt, Effect.rsp, foldl_store_rsp]

theorem affect_notif (s : State) (e : Effect) : (s.affect e).notif = s.notif ++ e.notif := by
  obtain ⟨ps, _ | ev, _ | a⟩ := e <;>
    simp [State.affect, State.answerOpt, State.emitOpt, Effect.notif, foldl_store_notif]

/-- Events and answers are no part of a slot. -/
theorem sameSlot_affect (s : State) (e : Effect) (k : Kind) (i : Inst) :
    SameSlot (e.puts.foldl State.store s) (s.affect e) k i := by
  obtain ⟨ps, _ | ev, _ | a⟩ := e <;> cases k <;> rfl

/-- An effect leaves every slot that it does not replace. -/
theorem sameSlot_affect_ne (s : State) {e : Effect} {k : Kind} {i : Inst} (hk : k ≠ .sys)
    (h : ∀ p ∈ e.puts, (k, i) ≠ p.slot) : SameSlot s (s.affect e) k i := by
  refine SameSlot.trans ?_ (sameSlot_affect s e k i)
  generalize e.puts = ps at h
  induction ps generalizing s with
  | nil => exact .refl ..
  | cons p ps ih =>
    rw [List.forall_mem_cons] at h
    exact (sameSlot_store_ne s hk h.1).trans (ih _ h.2)

/-- An effect keeps what two states share. -/
theorem SameSlot.affect {s t : State} {k : Kind} {i : Inst} (h : SameSlot s t k i) (e : Effect) :
    SameSlot (s.affect e) (t.affect e) k i := by
  refine SameSlot.trans (SameSlot.symm (sameSlot_affect s e k i)) (SameSlot.trans ?_ (sameSlot_affect t e k i))
  generalize e.puts = ps
  induction ps generalizing s t with
  | nil => exact h
  | cons p ps ih => exact ih (h.store p)

/-- An effect that replaces no `SYS` registers leaves them. -/
theorem affect_sys (s : State) {e : Effect} (h : ∀ p ∈ e.puts, p.slot.1 ≠ .sys) : (s.affect e).sys = s.sys := by
  refine (sameSlot_affect s e .sys 0 : _ = _).symm.trans ?_
  generalize e.puts = ps at h
  induction ps generalizing s with
  | nil => rfl
  | cons p ps ih =>
    rw [List.forall_mem_cons] at h
    refine (ih _ h.2).trans ?_
    cases p <;> first
      | rfl
      | exact absurd rfl h.1

/-! The same doing in two states. -/

/-- What two states must share for a command to do the same in both: the parameters, the `SYS` registers and the slots
it may read or write. -/
structure Agree (i : Instr) (s₁ s₂ : State) : Prop where
  params : s₁.params = s₂.params
  sys : s₁.sys = s₂.sys
  slot : ∀ x ∈ writes i ++ readsToo i, SameSlot s₁ s₂ x.1 x.2

theorem Agree.refl (i : Instr) (s : State) : Agree i s s := ⟨rfl, rfl, fun _ _ => .refl ..⟩

/-- The slots a command replaces: those of `writes`, and for a write to a `SYS` register the `SYS` registers. -/
def replaces : Instr → List (Kind × Inst)
  | .sysWrreg i rkind n v => if rkind = 0#4 then [(.sys, 0)] else writes (.sysWrreg i rkind n v)
  | i => writes i

/-- From two states, either the same error is raised, or the same effect takes place, on slots of the list alone. -/
inductive Alike (W : List (Kind × Inst)) (s₁ s₂ : State) (o₁ o₂ : Host.Outcome State Fault Refusal) : Prop where
  | raise (e : Status) (he : e ≠ .ok) (id : CmdId) (h₁ : o₁ = .next (s₁.raise e id)) (h₂ : o₂ = .next (s₂.raise e id))
  | effect (e : Effect) (hW : ∀ p ∈ e.puts, p.slot ∈ W) (h₁ : o₁ = .next (s₁.affect e)) (h₂ : o₂ = .next (s₂.affect e))

namespace Alike

variable {W : List (Kind × Inst)} {s₁ s₂ t₁ t₂ : State}

/-- One slot replaced and an answer. -/
theorem put {p : Put} (h : p.slot ∈ W) (n : Nat) (ws : List Word) :
    Alike W s₁ s₂ (.next ((s₁.store p).answer n ws)) (.next ((s₂.store p).answer n ws)) :=
  .effect ⟨[p], none, some (n, ws)⟩ (by simpa using h) rfl rfl

/-- An answer alone. -/
theorem answer (n : Nat) (ws : List Word) : Alike W s₁ s₂ (.next (s₁.answer n ws)) (.next (s₂.answer n ws)) :=
  .effect ⟨[], none, some (n, ws)⟩ (by simp) rfl rfl

/-- The same checks, none of which raises `OK`, before the same doing. -/
theorem command {id : CmdId} {cs : List (Bool × Status)} (hcs : ∀ c ∈ cs, c.2 ≠ .ok)
    (h : Alike W s₁ s₂ (.next t₁) (.next t₂)) : Alike W s₁ s₂ (s₁.command id cs t₁) (s₂.command id cs t₂) := by
  cases he : firstError cs with
  | none => rwa [command_ok he, command_ok he]
  | some e =>
    obtain ⟨c, hc, -, rfl⟩ := firstError_some he
    exact .raise c.2 (hcs c hc) id (command_error he) (command_error he)

/-- A command of one unit that replaces one slot and answers at once. -/
theorem unit {id : CmdId} {k : Kind} {i : Inst} {cs : List (Bool × Status)} {p : Put} {n : Nat} {ws : List Word}
    (hcs : ∀ c ∈ cs, c.2 ≠ .ok) (hp : p.slot ∈ W) :
    Alike W s₁ s₂ (s₁.command id (instCheck s₂ k i :: cs) ((s₁.store p).answer n ws))
      (s₂.command id (instCheck s₂ k i :: cs) ((s₂.store p).answer n ws)) :=
  command (List.forall_mem_cons.mpr ⟨by simp, hcs⟩) (put hp n ws)

end Alike

theorem hasInst_congr {s₁ s₂ : State} (h : s₁.params = s₂.params) (k : Kind) (i : Inst) :
    s₁.hasInst k i = s₂.hasInst k i := by
  rw [State.hasInst, State.hasInst, h]

theorem instCheck_congr {s₁ s₂ : State} (h : s₁.params = s₂.params) (k : Kind) (i : Inst) :
    instCheck s₁ k i = instCheck s₂ k i := by
  rw [instCheck, instCheck, hasInst_congr h]

theorem latch_congr {s₁ s₂ : State} (h : s₁.sys = s₂.sys) (k : Fin 9) : s₁.latch k = s₂.latch k := by
  simp only [State.latch, State.variantOf, h]

theorem procChecks_congr {s₁ s₂ : State} (h : s₁.params = s₂.params) (constructed : Bool) (n gran : Nat) :
    procChecks s₁ constructed n gran = procChecks s₂ constructed n gran := by
  rw [procChecks, procChecks, h]

/-- A register's value depends on its own slot. -/
theorem readReg_congr {s₁ s₂ : State} (hp : s₁.params = s₂.params) (hs : s₁.sys = s₂.sys) {k : Kind} {i : Inst}
    (h : SameSlot s₁ s₂ k i) (n : Nat) : readReg s₁ k i n = readReg s₂ k i n := by
  cases k with
  | sys => simp only [readReg, readSys, State.variantOf, hp, hs]
  | _ =>
    dsimp only [SameSlot] at h
    simp only [readReg, h]

theorem addressed_congr {s₁ s₂ : State} (hp : s₁.params = s₂.params) (hs : s₁.sys = s₂.sys) {i : Inst} {rk : BitVec 4}
    (h : ∀ k, kindOfCode rk.toNat = some k → SameSlot s₁ s₂ k i) (n : BitVec 8) :
    addressed s₁ i rk n = addressed s₂ i rk n := by
  unfold addressed
  cases hk : kindOfCode rk.toNat with
  | none => rfl
  | some k => simp only [hasInst_congr hp, readReg_congr hp hs (h k hk)]

theorem execSysRdreg_alike {W : List (Kind × Inst)} {s₁ s₂ : State} {i : Inst} {rk : BitVec 4} {n : BitVec 8}
    (h : addressed s₁ i rk n = addressed s₂ i rk n) :
    Alike W s₁ s₂ (execSysRdreg i rk n s₁) (execSysRdreg i rk n s₂) := by
  unfold execSysRdreg
  rw [h]
  split
  · exact .raise .invalidArgument (by decide) _ rfl rfl
  · exact .answer 0 _

theorem writeSys_alike {W : List (Kind × Inst)} {s₁ s₂ : State} (hW : (.sys, 0) ∈ W) (hp : s₁.params = s₂.params)
    (hs : s₁.sys = s₂.sys) (id : CmdId) (n : Nat) (v : Word) :
    Alike W s₁ s₂ (writeSys s₁ id n v) (writeSys s₂ id n v) := by
  unfold writeSys
  rw [hp, hs]
  split
  · exact .put (p := .sys _) hW 0 []
  · split
    · split
      · exact .raise .invalidArgument (by decide) _ rfl rfl
      · exact .put (p := .sys _) hW 0 []
    · exact .raise .invalidArgument (by decide) _ rfl rfl

theorem writeCop_alike {W : List (Kind × Inst)} {s₁ s₂ : State} {i : Inst} (hW : (.cop, i) ∈ W)
    (h : s₁.cop.at i = s₂.cop.at i) (id : CmdId) (n : Nat) (v : Word) :
    Alike W s₁ s₂ (writeCop s₁ id i n v) (writeCop s₂ id i n v) := by
  unfold writeCop
  rw [h]
  dsimp only
  split
  · exact .command (by simp) (.put (p := .cop i _) hW 0 [])
  · split
    · exact .command (by simp) (.put (p := .cop i _) hW 0 [])
    · exact .raise .invalidArgument (by decide) _ rfl rfl

theorem execSysWrreg_alike {s₁ s₂ : State} {i : Inst} {rk : BitVec 4} {n : BitVec 8} {v : Word}
    (h : Agree (.sysWrreg i rk n v) s₁ s₂) :
    Alike (replaces (.sysWrreg i rk n v)) s₁ s₂ (execSysWrreg i rk n v s₁) (execSysWrreg i rk n v s₂) := by
  have hk (k) (e : kindOfCode rk.toNat = some k) : SameSlot s₁ s₂ k i := h.slot (k, i) (by simp [readsToo, e])
  unfold execSysWrreg
  rw [addressed_congr h.params h.sys hk]
  dsimp only
  split
  · exact .raise .invalidArgument (by decide) _ rfl rfl
  · obtain ⟨rfl, -, -⟩ := addressed_eq_some.mp ‹_›
    exact writeSys_alike (by simp [replaces, Kind.code]) h.params h.sys ..
  · obtain ⟨rfl, -, -⟩ := addressed_eq_some.mp ‹_›
    exact writeCop_alike (by simp [replaces, writes, Kind.code]) (hk .cop rfl) ..
  · exact .raise .invalidArgument (by decide) _ rfl rfl

/-- A submission: appended, dropped, or dropped with the event of the edge. -/
theorem copSubmitStep_alike {W : List (Kind × Inst)} {s₁ s₂ : State} {c : Inst} (hW : (.cop, c) ∈ W)
    (h : s₁.cop.at c = s₂.cop.at c) (b : Block) :
    Alike W s₁ s₂ (.next (copSubmitStep s₁ c b)) (.next (copSubmitStep s₂ c b)) := by
  unfold copSubmitStep
  rw [h]
  dsimp only
  split
  · split
    · exact .put (p := .cop c _) hW 0 []
    · exact .effect ⟨[.cop c _], some (.ovfEntered, c), some (0, [])⟩ (List.forall_mem_singleton.mpr hW) rfl rfl
  · exact .put (p := .cop c _) hW 1 []

/-- A dequeue, with the event of the edge or without one; the answer comes later. -/
theorem drainDequeue_alike {W : List (Kind × Inst)} {s₁ s₂ : State} {c : Inst} (hW : (.cop, c) ∈ W)
    (h : s₁.cop.at c = s₂.cop.at c) (m : Nat) :
    Alike W s₁ s₂ (.next (drainDequeue s₁ c m)) (.next (drainDequeue s₂ c m)) := by
  unfold drainDequeue
  rw [h]
  dsimp only
  split
  · exact .effect ⟨[.cop c _], some (.ovfCleared, c), none⟩ (List.forall_mem_singleton.mpr hW) rfl rfl
  · exact .effect ⟨[.cop c _], none, none⟩ (List.forall_mem_singleton.mpr hW) rfl rfl

/-- A fragment: the iterator advances, and with `DCEN` the DC estimate. -/
theorem dbiAdvance_alike {W : List (Kind × Inst)} {s₁ s₂ : State} {i : Inst} (hb : (.dbi, i) ∈ W) (hd : (.dcr, i) ∈ W)
    (hp : s₁.params = s₂.params) (h : s₁.dbi.at i = s₂.dbi.at i) (hh : s₁.hil.at i = s₂.hil.at i)
    (hc : s₁.dcr.at i = s₂.dcr.at i) : Alike W s₁ s₂ (.next (dbiAdvance s₁ i)) (.next (dbiAdvance s₂ i)) := by
  unfold dbiAdvance
  rw [h, hh, hc, hp]
  dsimp only
  split
  · split
    · exact .effect ⟨[.dbi i _, .dcr i _], none, some (_, _)⟩ (by simpa using ⟨hb, hd⟩) rfl rfl
    · exact .put (p := .dbi i _) hb _ _
  · exact .put (p := .dbi i _) hb _ _

/-- Every command does the same in two states that agree on what it may read. -/
theorem exec_alike {i : Instr} {s₁ s₂ : State} (hne : i ≠ .sysReset) (h : Agree i s₁ s₂) :
    Alike (replaces i) s₁ s₂ (exec i s₁) (exec i s₂) := by
  have hp := h.params
  have hs := h.sys
  cases i with
  | sysNop => exact .answer 0 []
  | sysRdreg a rk n =>
    exact execSysRdreg_alike (addressed_congr hp hs (fun k e => h.slot (k, a) (by simp [readsToo, e])) n)
  | sysWrreg a rk n v => exact execSysWrreg_alike h
  | sysReset => exact absurd rfl hne
  | firrLoad a d c =>
    simp only [exec, execFirrLoad, instCheck_congr hp, latch_congr hs, firLoadChecks, hp]
    exact .unit (p := .firr a _) (by simp) List.mem_cons_self
  | firrProc a x =>
    have hx : s₁.firr.at a = s₂.firr.at a := h.slot (.firr, a) List.mem_cons_self
    simp only [exec, execFirrProc, instCheck_congr hp, hx, procChecks_congr hp, hp]
    exact .unit (p := .firr a _) (by simp [procChecks]) List.mem_cons_self
  | firrClr a =>
    have hx : s₁.firr.at a = s₂.firr.at a := h.slot (.firr, a) List.mem_cons_self
    simp only [exec, execFirrClr, instCheck_congr hp, hx]
    exact .unit (p := .firr a _) (by simp) List.mem_cons_self
  | fircLoad a d c =>
    simp only [exec, execFircLoad, instCheck_congr hp, latch_congr hs, firLoadChecks, hp]
    exact .unit (p := .firc a _) (by simp) List.mem_cons_self
  | fircProc a x =>
    have hx : s₁.firc.at a = s₂.firc.at a := h.slot (.firc, a) List.mem_cons_self
    simp only [exec, execFircProc, instCheck_congr hp, hx, procChecks_congr hp, hp]
    exact .unit (p := .firc a _) (by simp [procChecks]) List.mem_cons_self
  | fircClr a =>
    have hx : s₁.firc.at a = s₂.firc.at a := h.slot (.firc, a) List.mem_cons_self
    simp only [exec, execFircClr, instCheck_congr hp, hx]
    exact .unit (p := .firc a _) (by simp) List.mem_cons_self
  | hbrLoad a c =>
    simp only [exec, execHbrLoad, instCheck_congr hp, latch_congr hs, hbLoadChecks, hp]
    exact .unit (p := .hbr a _) (by simp) List.mem_cons_self
  | hbrProc a x =>
    have hx : s₁.hbr.at a = s₂.hbr.at a := h.slot (.hbr, a) List.mem_cons_self
    simp only [exec, execHbrProc, instCheck_congr hp, hx, procChecks_congr hp, hp]
    exact .unit (p := .hbr a _) (by simp [procChecks]) List.mem_cons_self
  | hbrClr a =>
    have hx : s₁.hbr.at a = s₂.hbr.at a := h.slot (.hbr, a) List.mem_cons_self
    simp only [exec, execHbrClr, instCheck_congr hp, hx]
    exact .unit (p := .hbr a _) (by simp) List.mem_cons_self
  | hbcLoad a c =>
    simp only [exec, execHbcLoad, instCheck_congr hp, latch_congr hs, hbLoadChecks, hp]
    exact .unit (p := .hbc a _) (by simp) List.mem_cons_self
  | hbcProc a x =>
    have hx : s₁.hbc.at a = s₂.hbc.at a := h.slot (.hbc, a) List.mem_cons_self
    simp only [exec, execHbcProc, instCheck_congr hp, hx, procChecks_congr hp, hp]
    exact .unit (p := .hbc a _) (by simp [procChecks]) List.mem_cons_self
  | hbcClr a =>
    have hx : s₁.hbc.at a = s₂.hbc.at a := h.slot (.hbc, a) List.mem_cons_self
    simp only [exec, execHbcClr, instCheck_congr hp, hx]
    exact .unit (p := .hbc a _) (by simp) List.mem_cons_self
  | hilLoad a c =>
    simp only [exec, execHilLoad, instCheck_congr hp, latch_congr hs]
    exact .unit (p := .hil a _) (by simp [hilLoadChecks]) List.mem_cons_self
  | hilProc a r =>
    have hx : s₁.hil.at a = s₂.hil.at a := h.slot (.hil, a) List.mem_cons_self
    simp only [exec, execHilProc, instCheck_congr hp, hx, procChecks_congr hp, hp]
    exact .unit (p := .hil a _) (by simp [procChecks]) List.mem_cons_self
  | hilClr a =>
    have hx : s₁.hil.at a = s₂.hil.at a := h.slot (.hil, a) List.mem_cons_self
    simp only [exec, execHilClr, instCheck_congr hp, hx]
    exact .unit (p := .hil a _) (by simp) List.mem_cons_self
  | dcrLoad a alpha =>
    simp only [exec, execDcrLoad, instCheck_congr hp, latch_congr hs]
    exact .unit (p := .dcr a _) (by simp) List.mem_cons_self
  | dcrProc a x =>
    have hx : s₁.dcr.at a = s₂.dcr.at a := h.slot (.dcr, a) List.mem_cons_self
    simp only [exec, execDcrProc, instCheck_congr hp, hx, procChecks_congr hp]
    exact .unit (p := .dcr a _) (by simp [procChecks]) List.mem_cons_self
  | dcrClr a =>
    have hx : s₁.dcr.at a = s₂.dcr.at a := h.slot (.dcr, a) List.mem_cons_self
    simp only [exec, execDcrClr, instCheck_congr hp, hx]
    exact .unit (p := .dcr a _) (by simp) List.mem_cons_self
  | ncoLoad a inc =>
    simp only [exec, execNcoLoad, instCheck_congr hp, latch_congr hs]
    exact .unit (p := .nco a _) (by simp) List.mem_cons_self
  | ncoGen a n =>
    have hx : s₁.nco.at a = s₂.nco.at a := h.slot (.nco, a) List.mem_cons_self
    simp only [exec, execNcoGen, instCheck_congr hp, hx, procChecks_congr hp, hp]
    exact .unit (p := .nco a _) (by simp [procChecks]) List.mem_cons_self
  | ncoClr a =>
    have hx : s₁.nco.at a = s₂.nco.at a := h.slot (.nco, a) List.mem_cons_self
    simp only [exec, execNcoClr, instCheck_congr hp, hx]
    exact .unit (p := .nco a _) (by simp) List.mem_cons_self
  | mixLoad a =>
    simp only [exec, execMixLoad, instCheck_congr hp, latch_congr hs]
    exact .unit (p := .mix a _) (by simp) List.mem_cons_self
  | mixProc a x =>
    have hx : s₁.nco.at a = s₂.nco.at a := h.slot (.nco, a) List.mem_cons_self
    have hm : s₁.mix.at a = s₂.mix.at a := h.slot (.mix, a) (by simp [readsToo])
    simp only [exec, execMixProc, instCheck_congr hp, hx, hm, procChecks_congr hp, hp]
    exact .unit (p := .nco a _) (by simp [procChecks]) List.mem_cons_self
  | fmdLoad a =>
    simp only [exec, execFmdLoad, instCheck_congr hp, latch_congr hs]
    exact .unit (p := .fmd a _) (by simp) List.mem_cons_self
  | fmdProc a x =>
    have hx : s₁.fmd.at a = s₂.fmd.at a := h.slot (.fmd, a) List.mem_cons_self
    simp only [exec, execFmdProc, instCheck_congr hp, hx, procChecks_congr hp, hp]
    exact .unit (p := .fmd a _) (by simp [procChecks]) List.mem_cons_self
  | fmdClr a =>
    have hx : s₁.fmd.at a = s₂.fmd.at a := h.slot (.fmd, a) List.mem_cons_self
    simp only [exec, execFmdClr, instCheck_congr hp, hx]
    exact .unit (p := .fmd a _) (by simp) List.mem_cons_self
  | dbiOpen a n flags lo hi ri rq raw =>
    have hh : s₁.hil.at a = s₂.hil.at a := h.slot (.hil, a) (by simp [readsToo])
    have hd : s₁.dcr.at a = s₂.dcr.at a := h.slot (.dcr, a) (by simp [readsToo])
    simp only [exec, execDbiOpen, dbiOpenChecks, instCheck_congr hp, hasInst_congr hp, hp, hh, hd]
    exact .command (by simp [instCheck]) (.put (p := .dbi a _) List.mem_cons_self ..)
  | dbiNext a =>
    have hx : s₁.dbi.at a = s₂.dbi.at a := h.slot (.dbi, a) List.mem_cons_self
    have hh : s₁.hil.at a = s₂.hil.at a := h.slot (.hil, a) (by simp [readsToo])
    have hd : s₁.dcr.at a = s₂.dcr.at a := h.slot (.dcr, a) (by simp [writes])
    simp only [exec, execDbiNext, instCheck_congr hp, hx]
    exact .command (by simp [instCheck])
      (dbiAdvance_alike List.mem_cons_self (by simp [replaces, writes]) hp hx hh hd)
  | dbiClr a =>
    simp only [exec, execDbiClr, instCheck_congr hp]
    exact .unit (p := .dbi a _) (by simp) List.mem_cons_self
  | dbiResid a =>
    have hx : s₁.dbi.at a = s₂.dbi.at a := h.slot (.dbi, a) List.mem_cons_self
    simp only [exec, execDbiResid, instCheck_congr hp, hx]
    exact .command (by simp [instCheck]) (.answer ..)
  | copOpen a cap rec out =>
    have hx : s₁.cop.at a = s₂.cop.at a := h.slot (.cop, a) List.mem_cons_self
    simp only [exec, execCopOpen, copOpenChecks, instCheck_congr hp, hx, hp]
    exact .unit (p := .cop a _) (by simp) List.mem_cons_self
  | copSubmit a lo hi x =>
    have hx : s₁.cop.at a = s₂.cop.at a := h.slot (.cop, a) List.mem_cons_self
    simp only [exec, execCopSubmit, instCheck_congr hp, hx, hp]
    exact .command (by simp [instCheck]) (copSubmitStep_alike List.mem_cons_self hx _)
  | copDrain a m =>
    have hx : s₁.cop.at a = s₂.cop.at a := h.slot (.cop, a) List.mem_cons_self
    simp only [exec, execCopDrain, instCheck_congr hp, hx]
    exact .command (by simp [instCheck]) (drainDequeue_alike List.mem_cons_self hx _)
  | copDetach a =>
    have hx : s₁.cop.at a = s₂.cop.at a := h.slot (.cop, a) List.mem_cons_self
    simp only [exec, execCopDetach, instCheck_congr hp, hx]
    exact .unit (p := .cop a _) (by simp) List.mem_cons_self

/-- What a command replaces, other than `SYS` registers, it may write. -/
theorem mem_writes_of_mem_replaces {i : Instr} {x : Kind × Inst} (hk : x.1 ≠ .sys) (h : x ∈ replaces i) :
    x ∈ writes i := by
  cases i with
  | sysWrreg a rk n v =>
    rw [replaces] at h
    split at h
    · exact absurd (by rw [List.mem_singleton.mp h]) hk
    · exact h
  | _ => exact h

theorem SameSlot.raise {s t : State} {k : Kind} {i : Inst} (h : SameSlot s t k i) (e : Status) (id : CmdId) :
    SameSlot (s.raise e id) (t.raise e id) k i := by
  cases k with
  | sys =>
    have hs : s.sys = t.sys := h
    simp [SameSlot, hs]
  | _ => exact h

/-- Settles O15: both runs raise the same error or have the same effect (`exec_alike`). -/
theorem noInfluenceFromElsewhere : Obligations.NoInfluenceFromElsewhere := by
  intro i s₁ s₂ t₁ t₂ hne hp hs hx h₁ h₂
  cases exec_alike hne ⟨hp, hs, hx⟩ with
  | raise e he id e₁ e₂ =>
    obtain rfl := Host.Outcome.next.inj (h₁.symm.trans e₁)
    obtain rfl := Host.Outcome.next.inj (h₂.symm.trans e₂)
    exact ⟨SameSlot.raise (k := .sys) (i := 0) hs e id, fun x hw => (hx x (by simp [hw])).raise e id, by simp, by simp⟩
  | effect e hW e₁ e₂ =>
    obtain rfl := Host.Outcome.next.inj (h₁.symm.trans e₁)
    obtain rfl := Host.Outcome.next.inj (h₂.symm.trans e₂)
    refine ⟨SameSlot.affect (k := .sys) (i := 0) hs e, fun x hw => (hx x (by simp [hw])).affect e, ?_, ?_⟩
    · simp [affect_rsp]
    · simp [affect_notif]

/-- What one command can do from one state. -/
theorem exec_does {i : Instr} {s t : State} (hne : i ≠ .sysReset) (h : exec i s = .next t) :
    (∃ e id, e ≠ .ok ∧ t = s.raise e id) ∨ ∃ e : Effect, (∀ p ∈ e.puts, p.slot ∈ replaces i) ∧ t = s.affect e := by
  cases exec_alike hne (.refl i s) with
  | raise e he id e₁ _ => exact .inl ⟨e, id, he, Host.Outcome.next.inj (h.symm.trans e₁)⟩
  | effect e hW e₁ _ => exact .inr ⟨e, hW, Host.Outcome.next.inj (h.symm.trans e₁)⟩

/-- A slot that a command may not write stays as it is. -/
theorem sameSlot_exec {i : Instr} {s t : State} {k : Kind} {j : Inst} (hne : i ≠ .sysReset) (hk : k ≠ .sys)
    (hw : (k, j) ∉ writes i) (h : exec i s = .next t) : SameSlot s t k j := by
  obtain ⟨e, id, -, rfl⟩ | ⟨e, hW, rfl⟩ := exec_does hne h
  · cases k with
    | sys => exact absurd rfl hk
    | _ => rfl
  · refine sameSlot_affect_ne s hk fun p hp hpk => hw (mem_writes_of_mem_replaces hk ?_)
    exact hpk ▸ hW p hp

/-- Phase 2 of a drain changes its channel, the error record and the ports. -/
theorem sameSlot_finishDrain (s : State) (c : Inst) {k : Kind} {j : Inst} (hk : k ≠ .sys) (h : (k, j) ≠ (.cop, c)) :
    SameSlot s (finishDrain s c) k j := by
  unfold finishDrain
  dsimp only
  rw [drainBlocks_frame]
  cases k with
  | sys => exact absurd rfl hk
  | cop =>
    have hj : j ≠ c := fun e => h (by rw [e])
    simp [SameSlot, hj]
  | _ => rfl

/-- Settles O14, command by command through `exec_does`, and by what a drained block leaves alone. -/
theorem otherInstancesUntouched : Obligations.OtherInstancesUntouched :=
  ⟨fun _ _ _ _ _ hne hk hw h => sameSlot_exec hne hk hw h, fun s c _ _ hk h => sameSlot_finishDrain s c hk h⟩

end Sys2Proof.Machine
end

section
/-! SUPPORT. The iterators' positions (R366), the queues (R39) and the error record (R27) under every command: of the
commands only those that may write the slot in question are looked at. -/

namespace Sys2Proof.Machine

theorem exec_sysReset {s t : State} (h : exec .sysReset s = .next t) : t = s.resetUnits.answer 0 [] :=
  (Host.Outcome.next.inj h).symm

/-! Positions. -/

/-- The commands that may write an iterator. -/
theorem mem_writes_dbi {c : Instr} {i : Inst} (h : (.dbi, i) ∈ writes c) :
    (∃ n flags lo hi ri rq raw, c = .dbiOpen i n flags lo hi ri rq raw) ∨ c = .dbiNext i ∨ c = .dbiClr i ∨
      c = .dbiResid i := by
  cases c <;> simp [writes] at h ⊢ <;> exact h.symm

/-- A fragment read advances the position by one (R360). -/
theorem dbiAdvance_pos (s : State) (i : Inst) : ((dbiAdvance s i).dbi.at i).pos = (s.dbi.at i).pos + 1 := by
  unfold dbiAdvance
  dsimp only
  split
  · split <;> simp
  · simp

theorem exec_dbiNext_pos {s t : State} {i : Inst} (h : exec (.dbiNext i) s = .next t) :
    (t.dbi.at i).pos = (s.dbi.at i).pos ∨
      ((t.dbi.at i).pos = (s.dbi.at i).pos + 1 ∧ (s.dbi.at i).pos < (s.dbi.at i).nfrag) := by
  obtain ⟨hc, rfl⟩ | ⟨e, -, rfl⟩ := command_cases h
  · have hlt : (s.dbi.at i).pos < (s.dbi.at i).nfrag := by
      simp only [firstError_none_iff, List.forall_mem_cons, decide_eq_false_iff_not] at hc
      omega
    exact .inr ⟨dbiAdvance_pos s i, hlt⟩
  · exact .inl rfl

theorem exec_dbiClr_pos {s t : State} {i : Inst} (h : exec (.dbiClr i) s = .next t) :
    (t.dbi.at i).isOpen = false ∨ (t.dbi.at i).pos = (s.dbi.at i).pos := by
  obtain ⟨-, rfl⟩ | ⟨e, -, rfl⟩ := command_cases h
  · exact .inl (by simp [Dbi.reset])
  · exact .inr rfl

theorem exec_dbiResid_dbi {s t : State} {i : Inst} (h : exec (.dbiResid i) s = .next t) : t.dbi = s.dbi := by
  obtain ⟨-, rfl⟩ | ⟨e, -, rfl⟩ := command_cases h <;> rfl

/-- Settles O49, by the commands that may write the iterator. -/
theorem positionNeverDecreases : Obligations.PositionNeverDecreases := by
  intro c s t i h _ ht
  by_cases hw : (.dbi, i) ∈ writes c
  · obtain ho | rfl | rfl | rfl := mem_writes_dbi hw
    · exact .inl ho
    · exact .inr ((exec_dbiNext_pos h).imp_right fun hp => ⟨rfl, hp⟩)
    · obtain hf | hp := exec_dbiClr_pos h
      · exact absurd (ht.symm.trans hf) (by decide)
      · exact .inr (.inl hp)
    · exact .inr (.inl (by rw [exec_dbiResid_dbi h]))
  · by_cases hr : c = .sysReset
    · subst hr
      rw [exec_sysReset h] at ht
      simp [Dbi.reset] at ht
    · have hs : s.dbi.at i = t.dbi.at i := sameSlot_exec hr (by decide) hw h
      exact .inr (.inl (by rw [hs]))

/-! Queues. -/

/-- The commands that may write a channel. -/
theorem mem_writes_cop {i : Instr} {c : Inst} (h : (.cop, c) ∈ writes i) :
    (∃ n v, i = .sysWrreg c 11 n v) ∨ (∃ cap rec out, i = .copOpen c cap rec out) ∨
      (∃ lo hi x, i = .copSubmit c lo hi x) ∨ (∃ m, i = .copDrain c m) ∨ i = .copDetach c := by
  cases i <;> simp [writes] at h ⊢
  case sysWrreg => exact ⟨h.2.symm, h.1⟩
  all_goals exact h.symm

/-- A write to a channel's register leaves its queue (R143). -/
theorem execSysWrreg_queue {s t : State} {i c : Inst} {rk : BitVec 4} {n : BitVec 8} {v : Word}
    (h : execSysWrreg i rk n v s = .next t) : (t.cop.at c).queue = (s.cop.at c).queue := by
  unfold execSysWrreg at h
  dsimp only at h
  split at h
  · obtain rfl := Host.Outcome.next.inj h
    rfl
  · obtain e | ⟨-, e⟩ | ⟨_, _, -, -, e⟩ := writeSys_cases s ⟨0, 2, i⟩ n.toNat v <;>
      (obtain rfl := Host.Outcome.next.inj (h.symm.trans e); rfl)
  · obtain ⟨_, -, e⟩ | ⟨-, -, e⟩ | ⟨-, -, e⟩ := writeCop_cases s ⟨0, 2, i⟩ i n.toNat v
    · obtain rfl := Host.Outcome.next.inj (h.symm.trans e)
      rfl
    all_goals
      obtain rfl := Host.Outcome.next.inj (h.symm.trans e)
      simp only [State.answer_cop, State.putCop_cop, Bank.at_put]
      split <;> simp_all
  · obtain rfl := Host.Outcome.next.inj h
    rfl

theorem exec_copOpen_queue {s t : State} {c : Inst} {cap rec out : Word}
    (h : exec (.copOpen c cap rec out) s = .next t) :
    (t.cop.at c).queue = [] ∨ (t.cop.at c).queue = (s.cop.at c).queue := by
  obtain ⟨-, rfl⟩ | ⟨e, -, rfl⟩ := command_cases h
  · exact .inl (by simp [copOpened, Cop.reset])
  · exact .inr rfl

theorem exec_copDetach_queue {s t : State} {c : Inst} (h : exec (.copDetach c) s = .next t) :
    (t.cop.at c).queue = [] ∨ (t.cop.at c).queue = (s.cop.at c).queue := by
  obtain ⟨-, rfl⟩ | ⟨e, -, rfl⟩ := command_cases h
  · exact .inl (by simp [Cop.reset])
  · exact .inr rfl

/-- A submission appends its block below capacity and else leaves the queue (R303). -/
theorem exec_copSubmit_queue {s t : State} {c : Inst} {lo hi : Word} {x : List Cplx}
    (h : exec (.copSubmit c lo hi x) s = .next t) :
    ((s.cop.at c).queue.length ≠ (s.cop.at c).capacity.toNat ∧
      (t.cop.at c).queue = (s.cop.at c).queue ++ [⟨stampOf lo hi, x⟩]) ∨ (t.cop.at c).queue = (s.cop.at c).queue := by
  obtain ⟨-, rfl⟩ | ⟨e, -, rfl⟩ := command_cases h
  · obtain ⟨-, e⟩ | ⟨hl, e⟩ := copSubmitStep_cases s c ⟨stampOf lo hi, x⟩
    · refine .inr ?_
      rw [e]
      split <;> simp
    · exact .inl ⟨hl, by simp [e]⟩
  · exact .inr rfl

/-- A dequeue moves the oldest blocks in flight (R310). -/
theorem exec_copDrain_queue {s t : State} {c : Inst} {m : BitVec 22} (h : exec (.copDrain c m) s = .next t) :
    ((t.cop.at c).inflight = some ((s.cop.at c).queue.take m.toNat) ∧
      (t.cop.at c).queue = (s.cop.at c).queue.drop m.toNat) ∨ (t.cop.at c).queue = (s.cop.at c).queue := by
  obtain ⟨-, rfl⟩ | ⟨e, -, rfl⟩ := command_cases h
  · obtain ⟨-, e⟩ | ⟨-, e⟩ := drainDequeue_cases s c m.toNat
    · exact .inl (by simp [e])
    · exact .inl (by simp [e])
  · exact .inr rfl

theorem drainBlock_queue (c d : Inst) (a : State × List OutBlock) (b : Block) :
    ((drainBlock c a b).1.cop.at d).queue = (a.1.cop.at d).queue := by
  obtain ⟨s, out⟩ := a
  by_cases hd : d = c
  · subst hd
    obtain ⟨-, e⟩ | ⟨-, e⟩ := drainBlock_cases d s out b
    · simp [e]
    · rw [e, processBlock_frame]
      simp
  · rw [drainBlock_frame]
    simp [hd]

theorem drainBlocks_queue (c d : Inst) (a : State × List OutBlock) (bs : List Block) :
    ((bs.foldl (drainBlock c) a).1.cop.at d).queue = (a.1.cop.at d).queue := by
  induction bs generalizing a with
  | nil => rfl
  | cons b bs ih => rw [List.foldl_cons, ih, drainBlock_queue]

theorem finishDrain_queue (s : State) (c d : Inst) : ((finishDrain s c).cop.at d).queue = (s.cop.at d).queue := by
  have h (e : Inst) := drainBlocks_queue c e (s, []) ((s.cop.at c).inflight.getD [])
  unfold finishDrain
  simp only [State.answer_cop, State.putCop_cop, Bank.at_put]
  split
  · subst d
    exact h c
  · exact h d

/-- Settles O57, by the commands that may write the channel. -/
theorem queueIsFifo : Obligations.QueueIsFifo := by
  refine ⟨fun i s t c h => ?_, finishDrain_queue⟩
  by_cases hw : (.cop, c) ∈ writes i
  · obtain ⟨n, v, rfl⟩ | ⟨cap, rec, out, rfl⟩ | ⟨lo, hi, x, rfl⟩ | ⟨m, rfl⟩ | rfl := mem_writes_cop hw
    · exact .inl (execSysWrreg_queue h)
    · obtain hq | hq := exec_copOpen_queue h
      · exact .inr (.inr (.inr ⟨hq, .inr (.inr ⟨cap, rec, out, rfl⟩)⟩))
      · exact .inl hq
    · obtain ⟨hl, hq⟩ | hq := exec_copSubmit_queue h
      · exact .inr (.inl ⟨lo, hi, x, rfl, hl, hq⟩)
      · exact .inl hq
    · obtain ⟨hf, hq⟩ | hq := exec_copDrain_queue h
      · exact .inr (.inr (.inl ⟨m, _, rfl, hf, List.length_take, by rw [hq, List.take_append_drop]⟩))
      · exact .inl hq
    · obtain hq | hq := exec_copDetach_queue h
      · exact .inr (.inr (.inr ⟨hq, .inr (.inl rfl)⟩))
      · exact .inl hq
  · by_cases hr : i = .sysReset
    · subst hr
      exact .inr (.inr (.inr ⟨by simp [exec_sysReset h, Cop.reset], .inl rfl⟩))
    · have hs : s.cop.at c = t.cop.at c := sameSlot_exec hr (by decide) hw h
      exact .inl (by rw [hs])

/-! The error record. -/

theorem responseWord_no_info (e : Status) : responseWord e 0 = BitVec.ofNat 32 e.code := by
  simp [responseWord]

/-- The response of an error of status `c` is no answer. -/
theorem answer_ne_error {c : Nat} (hc : 1 ≤ c) (hc' : c ≤ 7) (n : Nat) (ws : List Word) :
    responseWord .ok n :: ws ≠ [BitVec.ofNat 32 c] := by
  intro h
  have hb := statusByte_responseWord .ok n
  rw [(List.cons.inj h).1, statusByte, BitVec.toNat_ofNat] at hb
  simp only [Status.code] at hb
  omega

theorem effect_rsp_ne_error {c : Nat} (hc : 1 ≤ c) (hc' : c ≤ 7) (e : Effect) : e.rsp ≠ [[BitVec.ofNat 32 c]] := by
  obtain ⟨ps, ev, _ | ⟨n, ws⟩⟩ := e
  · simp [Effect.rsp]
  · simpa [Effect.rsp] using answer_ne_error hc hc' n ws

/-- The flag of a status is the bit of its code. -/
theorem raise_errflags_bit (s : State) (e : Status) (id : CmdId) {c : Nat} (hc : c ≤ 7) :
    (s.raise e id).sys.errflags.getLsbD c = (s.sys.errflags.getLsbD c || decide (c = e.code)) := by
  simp only [State.raise_sys, BitVec.getLsbD_or, BitVec.getLsbD_ofNat, Nat.testBit_two_pow]
  simp [show c < 32 by omega, eq_comm]

/-- A status is told by its response. -/
theorem raise_rsp_iff (s : State) (e : Status) (id : CmdId) {c : Nat} (hc : c ≤ 7) :
    (s.raise e id).rsp = s.rsp ++ [[BitVec.ofNat 32 c]] ↔ c = e.code := by
  have he : e.code < 8 := by cases e <;> decide
  have hw : BitVec.ofNat 32 e.code = BitVec.ofNat 32 c ↔ c = e.code := by
    rw [← BitVec.toNat_inj, BitVec.toNat_ofNat, BitVec.toNat_ofNat]
    omega
  simpa [responseWord_no_info] using hw

/-- What a write to a `SYS` register that raises nothing makes of the error flags (R143). -/
theorem execSysWrreg_errflags {s t : State} {i : Inst} {rk : BitVec 4} {n : BitVec 8} {v : Word}
    (h : execSysWrreg i rk n v s = .next t) :
    (∃ e id, t = s.raise e id) ∨ t.sys.errflags = s.sys.errflags ∨
      (i = 0 ∧ rk = 0 ∧ n = 2 ∧ t.sys.errflags = clearFlags s.sys.errflags v) := by
  unfold execSysWrreg at h
  dsimp only at h
  split at h
  · exact .inl ⟨_, _, (Host.Outcome.next.inj h).symm⟩
  · obtain ⟨rfl, hi, -⟩ := addressed_eq_some.mp ‹_›
    have hi0 : i = 0 := BitVec.eq_of_toNat_eq (by simpa [State.hasInst, Params.nInst] using hi)
    obtain e | ⟨hn, e⟩ | ⟨_, _, -, -, e⟩ := writeSys_cases s ⟨0, 2, i⟩ n.toNat v
    · exact .inl ⟨_, _, Host.Outcome.next.inj (h.symm.trans e)⟩
    · obtain rfl := Host.Outcome.next.inj (h.symm.trans e)
      exact .inr (.inr ⟨hi0, rfl, BitVec.eq_of_toNat_eq hn, rfl⟩)
    · obtain rfl := Host.Outcome.next.inj (h.symm.trans e)
      exact .inr (.inl rfl)
  · obtain ⟨_, -, e⟩ | ⟨-, -, e⟩ | ⟨-, -, e⟩ := writeCop_cases s ⟨0, 2, i⟩ i n.toNat v
    · exact .inl ⟨_, _, Host.Outcome.next.inj (h.symm.trans e)⟩
    all_goals
      obtain rfl := Host.Outcome.next.inj (h.symm.trans e)
      exact .inr (.inl rfl)
  · exact .inl ⟨_, _, (Host.Outcome.next.inj h).symm⟩

/-- What a command that is neither a reset nor a write to a `SYS` register replaces are no `SYS` registers. -/
theorem replaces_ne_sys {i : Instr} (hw : ∀ a rk n v, i ≠ .sysWrreg a rk n v) :
    ∀ x ∈ replaces i, x.1 ≠ .sys := by
  cases i with
  | sysWrreg a rk n v => exact absurd rfl (hw a rk n v)
  | _ => simp [replaces, writes]

/-- What a packet makes of the error flags. -/
theorem runPacket_errflags {s t : State} {p : Packet} (h : runPacket s p = .next t) :
    (∃ e id, t = s.raise e id) ∨
    (∀ c, 1 ≤ c → c ≤ 7 → t.rsp ≠ s.rsp ++ [[BitVec.ofNat 32 c]]) ∧
      (decode p = .ok .sysReset ∧ t.sys.errflags = 0 ∨ t.sys.errflags = s.sys.errflags ∨
        ∃ v, decode p = .ok (.sysWrreg 0 0 2 v) ∧ t.sys.errflags = clearFlags s.sys.errflags v) := by
  unfold runPacket at h
  split at h
  next i hd =>
    by_cases hr : i = .sysReset
    · subst hr
      obtain rfl := exec_sysReset h
      refine .inr ⟨fun c hc hc' e => answer_ne_error hc hc' 0 [] ?_, .inl ⟨hd, rfl⟩⟩
      simpa using e
    · obtain ⟨e, id, -, ht⟩ | ⟨e, hW, ht⟩ := exec_does hr h
      · exact .inl ⟨e, id, ht⟩
      · have hans (c : Nat) (hc : 1 ≤ c) (hc' : c ≤ 7) : t.rsp ≠ s.rsp ++ [[BitVec.ofNat 32 c]] := fun hrsp =>
          effect_rsp_ne_error hc hc' e (List.append_cancel_left ((affect_rsp s e).symm.trans (ht ▸ hrsp)))
        by_cases hw : ∀ a rk n v, i ≠ .sysWrreg a rk n v
        · refine .inr ⟨hans, .inr (.inl ?_)⟩
          rw [ht, affect_sys s fun p hp => replaces_ne_sys hw _ (hW p hp)]
        · simp only [not_forall, not_not] at hw
          obtain ⟨a, rk, n, v, rfl⟩ := hw
          obtain hr | hf | ⟨rfl, rfl, rfl, hf⟩ := execSysWrreg_errflags h
          · exact .inl hr
          · exact .inr ⟨hans, .inr (.inl hf)⟩
          · exact .inr ⟨hans, .inr (.inr ⟨v, hd, hf⟩)⟩
  next r _ => exact .inl ⟨_, _, (Host.Outcome.next.inj h).symm⟩

theorem clearFlags_bit {w v : Word} {c : Nat} (hc : 1 ≤ c) (hc' : c ≤ 7) :
    (clearFlags w v).getLsbD c = (w.getLsbD c && !v.getLsbD c) := by
  have hm : (0xFE#32).getLsbD c = true := by interval_cases c <;> rfl
  simp only [clearFlags, BitVec.getLsbD_and, BitVec.getLsbD_not, hm]
  simp [show c < 32 by omega]

/-- The blocks of a drain set bit 6 exactly when one of them faults (R318). -/
theorem drainBlocks_errflags (c : Inst) (a : State × List OutBlock) (bs : List Block) :
    (bs.foldl (drainBlock c) a).1.sys.errflags =
      if bs.any (blockFault a.1.params) then a.1.sys.errflags ||| 0x40#32 else a.1.sys.errflags := by
  induction bs generalizing a with
  | nil => rfl
  | cons b bs ih =>
    rw [List.foldl_cons, ih, (drainBlock_goesOn c a b).params, List.any_cons]
    obtain ⟨s, out⟩ := a
    obtain ⟨hb, e⟩ | ⟨hb, e⟩ := drainBlock_cases c s out b
    · rw [hb, e]
      simp [Status.code, BitVec.or_assoc]
    · rw [hb, e]
      simp

/-- Settles O13, by what a packet makes of the flags (`runPacket_errflags`) and by induction over the blocks of a
drain. -/
theorem errorFlagsAreSticky : Obligations.ErrorFlagsAreSticky := by
  refine ⟨fun s t p c hc hc' h => ?_, fun s c => drainBlocks_errflags c (s, []) _⟩
  obtain ⟨e, id, rfl⟩ | ⟨hans, hf⟩ := runPacket_errflags h
  · rw [raise_errflags_bit s e id hc', raise_rsp_iff s e id hc']
    cases s.sys.errflags.getLsbD c <;> simp
  · refine ⟨fun hs ht => ?_, fun hr => absurd hr (hans c hc hc'), fun hs ht => ?_⟩
    · obtain ⟨hd, -⟩ | hf | ⟨v, hd, hf⟩ := hf
      · exact .inl hd
      · rw [hf, hs] at ht
        exact absurd ht (by decide)
      · rw [hf, clearFlags_bit hc hc', hs] at ht
        exact .inr ⟨v, hd, by simpa using ht⟩
    · obtain ⟨-, hf⟩ | hf | ⟨v, -, hf⟩ := hf
      · simp [hf] at ht
      · rw [hf, hs] at ht
        exact absurd ht (by decide)
      · simp [hf, clearFlags_bit hc hc', hs] at ht

end Sys2Proof.Machine
end

section
/-! SUPPORT. Opening a channel (R301) and the register file: reads, writes and what they refuse (R24, R142, R143). -/

namespace Sys2Proof.Machine

theorem hasInst_iff (s : State) (k : Kind) (i : Inst) : s.hasInst k i = true ↔ i.toNat < s.params.nInst k := by
  simp [State.hasInst]

/-! Opening a channel. -/

theorem copOpenChecks_pass {s : State} {c : Inst} {cap rec out : Word} :
    firstError (copOpenChecks s c cap rec out) = none ↔ (s.cop.at c).opened = false ∧
      1 ≤ rec.toNat ∧ rec.toNat ≤ cap.toNat ∧ cap.toNat ≤ s.params.maxQcap ∧
        1 ≤ out.toNat ∧ out.toNat ≤ s.params.maxBlock := by
  simp only [copOpenChecks, firstError_none_iff, List.forall_mem_cons, decide_eq_false_iff_not, not_not]
  simp [and_assoc]

/-- A failing check of an opening is an argument error. -/
theorem copOpenChecks_fail {s : State} {c : Inst} {cap rec out : Word}
    (h : firstError (copOpenChecks s c cap rec out) ≠ none) :
    firstError (copOpenChecks s c cap rec out) = some .invalidArgument := by
  obtain ⟨e, he⟩ := Option.ne_none_iff_exists'.mp h
  obtain ⟨x, hx, -, rfl⟩ := firstError_some he
  rw [he]
  simp only [copOpenChecks, List.mem_cons, List.not_mem_nil, or_false] at hx
  obtain rfl | rfl | rfl := hx <;> rfl

/-- Settles O51, by the checks of an opening. -/
theorem channelOpens : Obligations.ChannelOpens := by
  intro s c cap rec out hc
  have hi := firstError_instCheck s .cop c (copOpenChecks s c cap rec out)
  rw [if_pos ((hasInst_iff s .cop c).mpr hc)] at hi
  refine ⟨fun ho hs => ?_, fun h => ?_⟩
  · exact command_ok (hi.trans (copOpenChecks_pass.mpr ⟨ho, hs⟩))
  · refine command_error (hi.trans (copOpenChecks_fail fun hn => ?_))
    obtain ⟨ho, hs⟩ := copOpenChecks_pass.mp hn
    obtain h | h := h
    · exact absurd (h.symm.trans ho) (by decide)
    · exact h hs

/-! Addresses. -/

theorem Kind.code_injective {k l : Kind} (h : k.code = l.code) : k = l := by
  have hk := kindOfCode_eq_some.mpr (rfl : k.code.toNat = k.code.toNat)
  rw [h] at hk
  exact Option.some.inj (hk.symm.trans (kindOfCode_eq_some.mpr rfl))

/-- The registers of a kind (R25, R29 to R38). -/
def listedRegs : Kind → List Nat
  | .sys => [0, 1, 2, 3, 17, 18, 19, 20, 21, 22, 23, 24, 25]
  | .firr | .firc | .hbr | .hbc | .hil => [0, 1, 2, 3]
  | .dcr | .nco | .fmd => [0, 4, 5]
  | .mix => [0]
  | .dbi => [0, 1, 2, 3, 6, 7]
  | .cop => [0, 1, 2, 3, 4, 5, 6, 7, 8, 9, 10, 11, 12]

/-- What can be read is listed. -/
theorem mem_listedRegs {s : State} {k : Kind} {i : Inst} {n : Nat} {v : Word} (h : readReg s k i n = some v) :
    n ∈ listedRegs k := by
  cases k with
  | sys =>
    simp only [readReg, readSys] at h
    by_cases hn : n ≤ 25
    · interval_cases n <;> simp_all [listedRegs]
    · rw [if_neg (by omega), if_neg (by omega), if_neg (by omega), if_neg (by omega), dif_neg (by omega)] at h
      cases h
  | _ =>
    simp only [readReg, readFir, readHb, readHil, readDcr, readNco, readMix, readFmd, readDbi, readCop] at h
    split at h <;> cases h <;> decide

/-- An access that names no register of an existing unit. -/
theorem addressed_eq_none {s : State} {i : Inst} {rk : BitVec 4} {n : BitVec 8}
    (h : 12 ≤ rk.toNat ∨ ∃ k : Kind, rk = k.code ∧ (s.params.nInst k ≤ i.toNat ∨ n.toNat ∉ listedRegs k)) :
    addressed s i rk n = none := by
  refine Option.eq_none_iff_forall_ne_some.mpr fun ⟨k, v⟩ he => ?_
  obtain ⟨rfl, hi, hv⟩ := addressed_eq_some.mp he
  obtain h | ⟨k', hk, h⟩ := h
  · cases k <;> exact absurd h (by decide)
  · obtain rfl := Kind.code_injective hk
    obtain h | h := h
    · have := (hasInst_iff s k i).mp hi
      omega
    · exact h (mem_listedRegs hv)

theorem execSysRdreg_of_none {s : State} {i : Inst} {rk : BitVec 4} {n : BitVec 8} (h : addressed s i rk n = none) :
    execSysRdreg i rk n s = .next (s.raise .invalidArgument ⟨0, 1, i⟩) := by
  rw [execSysRdreg, h]

theorem execSysWrreg_of_none {s : State} {i : Inst} {rk : BitVec 4} {n : BitVec 8} (h : addressed s i rk n = none)
    (v : Word) : execSysWrreg i rk n v s = .next (s.raise .invalidArgument ⟨0, 2, i⟩) := by
  rw [execSysWrreg, h]

theorem execSysWrreg_sys {s : State} {i : Inst} {rk : BitVec 4} {n : BitVec 8} {w : Word}
    (h : addressed s i rk n = some (.sys, w)) (v : Word) :
    execSysWrreg i rk n v s = writeSys s ⟨0, 2, i⟩ n.toNat v := by
  rw [execSysWrreg, h]

theorem execSysWrreg_cop {s : State} {i : Inst} {rk : BitVec 4} {n : BitVec 8} {w : Word}
    (h : addressed s i rk n = some (.cop, w)) (v : Word) :
    execSysWrreg i rk n v s = writeCop s ⟨0, 2, i⟩ i n.toNat v := by
  rw [execSysWrreg, h]

theorem execSysWrreg_other {s : State} {i : Inst} {rk : BitVec 4} {n : BitVec 8} {k : Kind} {w : Word}
    (h : addressed s i rk n = some (k, w)) (hs : k ≠ .sys) (hc : k ≠ .cop) (v : Word) :
    execSysWrreg i rk n v s = .next (s.raise .invalidArgument ⟨0, 2, i⟩) := by
  rw [execSysWrreg, h]
  cases k <;> first
    | rfl
    | exact absurd rfl hs
    | exact absurd rfl hc

/-- A register of the system unit is addressed by `RKIND` 0 and `INST` 0. -/
theorem addressed_sys {s : State} {n : BitVec 8} {v : Word} (h : readSys s n.toNat = some v) :
    addressed s 0 0 n = some (.sys, v) :=
  addressed_eq_some.mpr ⟨rfl, rfl, h⟩

/-- A variant register reads its code (R26). -/
theorem readSys_variant (s : State) (k : Fin 9) :
    readSys s (17 + k.val) = some (BitVec.ofNat 32 (s.sys.variant[k]).code) := by
  have hk : 17 + k.val - 17 = k.val := by omega
  simp only [readSys]
  rw [if_neg (by omega), if_neg (by omega), if_neg (by omega), if_neg (by omega), dif_pos (by omega)]
  simp only [hk]
  rfl

theorem toNat_variantReg (k : Fin 9) : (BitVec.ofNat 8 (17 + k.val)).toNat = 17 + k.val := by
  rw [BitVec.toNat_ofNat, Nat.mod_eq_of_lt (by omega)]

theorem addressed_cop {s : State} {i : Inst} {n : BitVec 8} {v : Word} (hi : i.toNat < s.params.nCop)
    (h : readCop (s.cop.at i) n.toNat = some v) : addressed s i 11 n = some (.cop, v) :=
  addressed_eq_some.mpr ⟨rfl, (hasInst_iff s .cop i).mpr hi, h⟩

/-! Writes. -/

theorem writeSys_errflags (s : State) (id : CmdId) (v : Word) :
    writeSys s id 2 v = .next ((s.putSys { s.sys with errflags := clearFlags s.sys.errflags v }).answer 0 []) := rfl

theorem writeSys_variant (s : State) (id : CmdId) (k : Fin 9) {v : Word} {x : Variant}
    (h : writableVariant s.params v.toNat = some x) :
    writeSys s id (17 + k.val) v =
      .next ((s.putSys { s.sys with variant := s.sys.variant.set k.val x k.isLt }).answer 0 []) := by
  have hk : 17 + k.val - 17 = k.val := by omega
  rw [writeSys, if_neg (by omega), dif_pos (by omega), h]
  simp only [hk]

/-- No other register of the system unit is written (R143). -/
theorem writeSys_refused (s : State) (id : CmdId) {n : Nat} (v : Word) (h2 : n ≠ 2)
    (h : 17 ≤ n ∧ n ≤ 25 → writableVariant s.params v.toNat = none) :
    writeSys s id n v = .next (s.raise .invalidArgument id) := by
  unfold writeSys
  rw [if_neg h2]
  split
  · rw [h ‹_›]
  · rfl

/-- A code that may be written is that of the variant (R26). -/
theorem writableVariant_code {P : Params} {x : Variant} (h : x = .uncalibrated ∨ x.code ≤ P.hwMaxVariant) :
    writableVariant P x.code = some x := by
  have hn : ¬(1 ≤ x.code ∧ x.code ≤ 4 ∧ P.hwMaxVariant < x.code) := by
    obtain rfl | h := h
    · simp [Variant.code]
    · omega
  rw [writableVariant, if_neg hn]
  cases x <;> rfl

theorem writableVariant_eq_none {P : Params} {n : Nat} (h : 5 < n ∨ (1 ≤ n ∧ n ≤ 4 ∧ P.hwMaxVariant < n)) :
    writableVariant P n = none := by
  by_contra hne
  obtain ⟨x, hx⟩ := Option.ne_none_iff_exists'.mp hne
  obtain ⟨rfl, ho⟩ := writableVariant_ok hx
  have h5 : x.code ≤ 5 := by cases x <;> decide
  obtain rfl | ho := ho
  · simp [Variant.code] at h
  · omega

/-- Settles O43, register by register. -/
theorem writeRegisterTakesEffect : Obligations.WriteRegisterTakesEffect := by
  intro s i v
  refine ⟨?_, fun k x hv hx => ?_, fun hi ho => ⟨?_, ?_⟩⟩
  · exact execSysWrreg_sys (addressed_sys (s := s) (n := 2) rfl) v
  · have hc : v.toNat = x.code := by
      rw [hv, BitVec.toNat_ofNat]
      cases x <;> rfl
    refine (execSysWrreg_sys (addressed_sys ((congrArg _ (toNat_variantReg k)).trans (readSys_variant s k))) v).trans ?_
    rw [toNat_variantReg, writeSys_variant s _ k (hc ▸ writableVariant_code hx)]
    rfl
  · refine (execSysWrreg_cop (addressed_cop hi (n := 4) rfl) v).trans (command_ok ?_)
    simp [ho]
  · refine (execSysWrreg_cop (addressed_cop hi (n := 5) rfl) v).trans (command_ok ?_)
    simp [ho]

/-- The writable registers of a kind (R24, R143). -/
def writableRegs : Kind → List Nat
  | .sys => [2, 17, 18, 19, 20, 21, 22, 23, 24, 25]
  | .cop => [4, 5]
  | _ => []

/-- A write to a register that is not writable, listed or not, is an argument error. -/
theorem execSysWrreg_readOnly (s : State) (i : Inst) {k : Kind} {n : BitVec 8} (v : Word)
    (h : n.toNat ∉ writableRegs k) :
    execSysWrreg i k.code n v s = .next (s.raise .invalidArgument ⟨0, 2, i⟩) := by
  cases ha : addressed s i k.code n with
  | none => exact execSysWrreg_of_none ha v
  | some a =>
    obtain ⟨l, w⟩ := a
    obtain rfl := Kind.code_injective (addressed_eq_some.mp ha).1
    by_cases hs : k = .sys
    · subst hs
      simp only [writableRegs, List.mem_cons, List.not_mem_nil, or_false] at h
      rw [execSysWrreg_sys ha, writeSys_refused s _ v (by omega) (by omega)]
    by_cases hc : k = .cop
    · subst hc
      simp only [writableRegs, List.mem_cons, List.not_mem_nil, or_false, not_or] at h
      rw [execSysWrreg_cop ha, writeCop, if_neg h.1, if_neg h.2]
    exact execSysWrreg_other ha hs hc v

/-- Settles O44, by what an address names and what a register takes. -/
theorem registerAccessErrors : Obligations.RegisterAccessErrors := by
  unfold Obligations.RegisterAccessErrors
  intro listed writable s i rk n v
  have hl (k) : listed k = listedRegs k := by cases k <;> rfl
  have hw (k) : writable k = writableRegs k := by cases k <;> rfl
  refine ⟨fun h => ?_, fun k hk h => ?_, fun h17 h25 hv => ?_, fun hi ho hn => ?_⟩
  · simp only [hl] at h
    have ha := addressed_eq_none h
    exact ⟨execSysRdreg_of_none ha, execSysWrreg_of_none ha v⟩
  · subst hk
    exact execSysWrreg_readOnly s i v (hw k ▸ h)
  · obtain ⟨k, hk⟩ : ∃ k : Fin 9, n.toNat = 17 + k.val := ⟨⟨n.toNat - 17, by omega⟩, by simp; omega⟩
    refine (execSysWrreg_sys (addressed_sys ((congrArg _ hk).trans (readSys_variant s k))) v).trans ?_
    exact writeSys_refused s _ v (by omega) fun _ => writableVariant_eq_none hv
  · obtain rfl | rfl := hn
    · refine (execSysWrreg_cop (addressed_cop hi (n := 4) rfl) v).trans (command_error ?_)
      simp [ho]
    · refine (execSysWrreg_cop (addressed_cop hi (n := 5) rfl) v).trans (command_error ?_)
      simp [ho]

/-! Reads. -/

theorem exec_sysRdreg_of_read {s : State} {k : Kind} {i : Inst} {n : Nat} {v : Word} (hi : i.toNat < s.params.nInst k)
    (hn : n < 2 ^ 8) (h : readReg s k i n = some v) :
    exec (.sysRdreg i k.code (BitVec.ofNat 8 n)) s = .next { s with rsp := s.rsp ++ [[0x00000000, v]] } := by
  have ha : addressed s i k.code (BitVec.ofNat 8 n) = some (k, v) :=
    addressed_eq_some.mpr ⟨rfl, (hasInst_iff s k i).mpr hi, by rwa [BitVec.toNat_ofNat, Nat.mod_eq_of_lt hn]⟩
  simp only [exec, execSysRdreg, ha]
  rfl

/-- The gate of R24 on a number. -/
theorem live_regNat (flag : Bool) (n : Nat) : live flag (regNat n) = BitVec.ofNat 32 (if flag then n else 0) := by
  cases flag <;> rfl

/-- The gate of R24 on a word. -/
theorem live_word (flag : Bool) (v : Word) : live flag v = BitVec.ofNat 32 (if flag then v.toNat else 0) := by
  cases flag <;> simp [live]

theorem filterStatus_eq (constructed : Bool) (ivar : Variant) (par : Bool) :
    filterStatus constructed ivar par =
      BitVec.ofNat 32 (if constructed then 1 + 2 * ivar.code + 16 * par.toNat else 0) :=
  live_regNat ..

theorem stampLo_toNat (t : Stamp) : (stampLo t).toNat = t.toNat % 2 ^ 32 := by
  simp [stampLo]

theorem stampHi_toNat (t : Stamp) : (stampHi t).toNat = t.toNat / 2 ^ 32 := by
  have := t.isLt
  simp only [stampHi, BitVec.extractLsb'_toNat, Nat.shiftRight_eq_div_pow]
  omega

theorem dbi_status_eq (u : Dbi) : u.status = BitVec.ofNat 32 (if u.isOpen then
    1 + 2 * (decide (u.pos < u.nfrag)).toNat + 4 * u.mode.toNat + 8 * u.packed.toNat + 16 * u.dcen.toNat else 0) := by
  cases h : u.isOpen <;> simp [Dbi.status, Dbi.hasNext, live, regNat, h]

/-- Settles O42: every entry of the table is what its register reads. -/
theorem nopAndReadChangeNothing : Obligations.NopAndReadChangeNothing := by
  intro s i
  refine ⟨rfl, fun e he hi => ?_, fun n => ?_⟩
  · suffices h : e.2.1 < 2 ^ 8 ∧ readReg s e.1 i e.2.1 = some e.2.2 from exec_sysRdreg_of_read hi h.1 h.2
    revert e
    simp only [List.forall_mem_cons, readReg, readFir, readHb, readHil, readDcr, readNco, readMix, readFmd, readDbi,
      readCop, Cop.status, filterStatus_eq, dbi_status_eq, live_regNat]
    simp [readSys, live_word, stampLo_toNat, stampHi_toNat, hwcap, regNat, hilOverlap]
  · exact exec_sysRdreg_of_read (k := .sys) (i := 0) Nat.one_pos (by omega) (readSys_variant s n)

/-! Reset. -/

/-- A unit at reset reads 0 in every register but `HIL.OVERLAP` (R42). -/
theorem readReg_reset {k : Kind} {i : Inst} {n : Nat} {v : Word} (hk : k ≠ .sys)
    (h : readReg State.reset k i n = some v) : v = 0#32 ∨ (k = .hil ∧ n = 3 ∧ v = 0x0000170B#32) := by
  cases k with
  | sys => exact absurd rfl hk
  | _ =>
    simp only [readReg, State.reset, State.cleared, Bank.at_fill, readFir, readHb, readHil, readDcr, readNco, readMix,
      readFmd, readDbi, readCop] at h
    split at h <;> cases h <;> first
      | exact .inl rfl
      | exact .inr ⟨rfl, rfl, rfl⟩

theorem drainingChannels_of_reset {s : State} (h : s.cop = Bank.fill Cop.reset) : drainingChannels s = [] := by
  simp [drainingChannels, h, Cop.reset]

theorem step_idle {s : State} (h : s.cmd = []) (hd : drainingChannels s = []) : step s = .next s := by
  rw [step, advance, choices, hd, h]
  rfl

/-- Settles O18, by the values of the reset state. -/
theorem resetState : Obligations.ResetState := by
  refine ⟨⟨rfl, rfl, fun k => ?_, rfl, rfl, rfl, rfl, rfl, drainingChannels_of_reset rfl⟩, fun i => ?_,
    fun k i n v => readReg_reset, fun s => rfl, fun s => ?_⟩
  · simp [State.reset, State.cleared, Sys.reset, Variant.code]
  · simp [State.reset, State.cleared, Fir.reset, Hb.reset, Hil.reset, Dcr.reset, Nco.reset, Mix.reset, Fmd.reset,
      Dbi.reset, Cop.reset]
  · have hd : drainingChannels s.hardReset = [] := drainingChannels_of_reset rfl
    exact ⟨rfl, rfl, hd, step_idle rfl hd⟩

end Sys2Proof.Machine
end

section
/-! SUPPORT. Which pending packets are ordered (R85, R86, R452): the keys of a packet in terms of the unit it is
addressed to, and what two packets with a common key share. -/

namespace Sys2Proof.Machine

/-- `DCEN` as the scheduler finds it at position `k`. -/
theorem dcenAt_iff {s : State} {k : Nat} {p : Packet} : dcenAt s (s.cmd.take k) p = true ↔ DcenFor s k p := by
  have hmem (P : Packet → Prop) : (∃ b ∈ s.cmd.take k, P b) ↔
      ∃ (m : Nat) (o : Packet), m < k ∧ s.cmd[m]? = some o ∧ P o := by
    simp only [List.mem_iff_getElem?, List.getElem?_take]
    constructor
    · rintro ⟨b, ⟨m, hm⟩, hb⟩
      obtain ⟨hk, hm⟩ := Option.ite_none_right_eq_some.mp hm
      exact ⟨m, b, hk, hm, hb⟩
    · rintro ⟨m, b, hk, hm, hb⟩
      exact ⟨b, ⟨m, by rw [if_pos hk, hm]⟩, hb⟩
  unfold dcenAt DcenFor
  dsimp only
  split
  · rfl
  · simp only [Bool.or_eq_true, List.any_eq_true, hmem, isDbi, Bool.and_eq_true, decide_eq_true_eq]
    simp only [and_assoc, and_left_comm]

/-- The keys of a packet: that of the unit it is addressed to, or of the producer side; that of the coefficients
for the two kinds that share them; that of the DC removal unit with `DCEN`; that of the drains for `SYS.RESET`. -/
theorem mem_keysOf {s : State} {before : List Packet} {p : Packet} {x : Key} :
    x ∈ keysOf s before p ↔
      (¬IsSubmit p.header ∧ x ∈ unitKeys (addressee p.header).1 (addressee p.header).2) ∨
      (IsSubmit p.header ∧ x = .producer (instOf p.header)) ∨
      (kindOf p.header = 0#4 ∧ funcOf p.header = 3#2 ∧ x = .draining) ∨
      ((kindOf p.header = 10#4 ∨ (kindOf p.header = 5#4 ∧ funcOf p.header = 0#2)) ∧ x = .hilCoef (instOf p.header)) ∨
      (kindOf p.header = 10#4 ∧ dcenAt s before p = true ∧ x = .unit 6#4 (instOf p.header)) := by
  simp only [keysOf, addressee, IsSubmit]
  generalize kindOf p.header = k
  generalize funcOf p.header = f
  generalize dcenAt s before p = d
  by_cases h0 : k = 0#4
  · subst h0
    by_cases h12 : f = 1#2 ∨ f = 2#2
    · have h3 : f ≠ 3#2 := by rintro rfl; simp at h12
      simp [h12, h3]
    · rw [not_or] at h12
      by_cases h3 : f = 3#2
      · subst h3
        simp [unitKeys, unitKey]
      · simp [h12, h3, unitKeys, unitKey]
  by_cases h5 : k = 5#4
  · subst h5
    by_cases hf : f = 0#2 <;> simp [hf, unitKeys, unitKey]
  by_cases h10 : k = 10#4
  · subst h10
    cases d <;> simp [unitKeys, unitKey]
  by_cases h11 : k = 11#4
  · subst h11
    by_cases hf : f = 1#2 <;> simp [hf, unitKeys, unitKey]
  simp [h0, h5, h10, h11]

theorem mem_unitKeys {k : BitVec 4} {i : Inst} {x : Key} : x ∈ unitKeys k i ↔ k.toNat ≤ 11 ∧ x = unitKey k i := by
  unfold unitKeys
  split
  · simp; omega
  · simp; omega

/-- What the key of a unit can be. -/
theorem unitKey_cases (k : BitVec 4) (i : Inst) :
    (k = 11#4 ∧ unitKey k i = .consumer i) ∨ (k = 8#4 ∧ unitKey k i = .unit 7#4 i) ∨ (k = 0#4 ∧ unitKey k i = .sys) ∨
      (k ≠ 11#4 ∧ k ≠ 8#4 ∧ k ≠ 0#4 ∧ unitKey k i = .unit k i) := by
  unfold unitKey
  split
  · simp [*]
  split
  · simp [*]
  split <;> simp [*]

/-- Two instances have one key when they are the same, or an oscillator and the mixer of its index. -/
theorem unitKey_eq {k l : BitVec 4} {i j : Inst} (h : unitKey k i = unitKey l j) :
    (k = l ∧ (k = 0#4 ∨ i = j)) ∨ (i = j ∧ (k = 8#4 ∧ l = 7#4 ∨ k = 7#4 ∧ l = 8#4)) := by
  obtain ⟨hk, e⟩ | ⟨hk, e⟩ | ⟨hk, e⟩ | ⟨hk, hk', hk'', e⟩ := unitKey_cases k i <;>
    obtain ⟨hl, e'⟩ | ⟨hl, e'⟩ | ⟨hl, e'⟩ | ⟨hl, hl', hl'', e'⟩ := unitKey_cases l j <;>
    rw [e, e'] at h <;> simp_all

/-- Only the DC removal instances have the keys of their kind. -/
theorem unitKey_eq_dcr {k : BitVec 4} {i j : Inst} (h : unitKey k i = .unit 6#4 j) : k = 6#4 ∧ i = j := by
  obtain ⟨hk, e⟩ | ⟨hk, e⟩ | ⟨hk, e⟩ | ⟨-, -, -, e⟩ := unitKey_cases k i <;> rw [e] at h <;> simp_all

theorem unitKey_dcr (i : Inst) : unitKey 6#4 i = .unit 6#4 i := rfl

theorem unitKey_eq_consumer {k : BitVec 4} {i c : Inst} (h : unitKey k i = .consumer c) : k = 11#4 ∧ i = c := by
  obtain ⟨hk, e⟩ | ⟨hk, e⟩ | ⟨hk, e⟩ | ⟨-, -, -, e⟩ := unitKey_cases k i <;> rw [e] at h <;> simp_all

/-- The keys of instances are none of the others. -/
theorem unitKey_ne (k : BitVec 4) (i j : Inst) :
    unitKey k i ≠ .producer j ∧ unitKey k i ≠ .hilCoef j ∧ unitKey k i ≠ .draining := by
  obtain ⟨-, e⟩ | ⟨-, e⟩ | ⟨-, e⟩ | ⟨-, -, -, e⟩ := unitKey_cases k i <;> simp [e]

/-- A packet that is no register access is addressed by its header. -/
theorem addressee_of_kind {h : Word} (hk : kindOf h ≠ 0#4) : addressee h = (kindOf h, instOf h) := by
  simp [addressee, hk]

theorem addressee_of_submit {h : Word} (hs : IsSubmit h) : addressee h = (11#4, instOf h) := by
  rw [addressee_of_kind (by simp [hs.1]), hs.1]

/-- Two packets with a common key are addressed to one unit, or share state. -/
theorem sameTarget_or_sharedPair {s : State} {j k : Nat} {p q : Packet} {x : Key} (hp : x ∈ keysOf s (s.cmd.take j) p)
    (hq : x ∈ keysOf s (s.cmd.take k) q) : SameTarget p.header q.header ∨ SharedPair s j p k q := by
  rw [mem_keysOf, mem_unitKeys, dcenAt_iff] at hp hq
  unfold SharedPair SameTarget
  obtain ⟨hsp, hkp, rfl⟩ | ⟨hsp, rfl⟩ | ⟨hkp, hfp, rfl⟩ | ⟨hkp, rfl⟩ | ⟨hkp, hdp, rfl⟩ := hp
  · obtain ⟨hsq, hkq, e⟩ | ⟨-, e⟩ | ⟨-, -, e⟩ | ⟨-, e⟩ | ⟨hkq, hdq, e⟩ := hq
    · obtain ⟨hk, hi⟩ | ⟨hi, hk⟩ := unitKey_eq e
      · exact .inl ⟨hk, hi.imp_right fun hi => ⟨hkp, hi, iff_of_false hsp hsq⟩⟩
      · exact .inr ⟨hi, hk.elim .inl fun hk => .inr (.inl hk)⟩
    · exact absurd e (unitKey_ne _ _ _).1
    · exact absurd e (unitKey_ne _ _ 0).2.2
    · exact absurd e (unitKey_ne _ _ _).2.1
    · obtain ⟨hk, hi⟩ := unitKey_eq_dcr e
      rw [addressee_of_kind (h := q.header) (by simp [hkq])]
      exact .inr ⟨hi, .inr (.inr (.inr (.inr (.inr ⟨hk, hkq, hdq⟩))))⟩
  · obtain ⟨-, -, e⟩ | ⟨hsq, e⟩ | ⟨-, -, e⟩ | ⟨-, e⟩ | ⟨-, -, e⟩ := hq
    · exact absurd e.symm (unitKey_ne _ _ _).1
    · rw [addressee_of_submit hsp, addressee_of_submit hsq]
      exact .inl ⟨rfl, .inr ⟨Nat.le_refl 11, Key.producer.inj e, iff_of_true hsp hsq⟩⟩
    all_goals cases e
  · obtain ⟨-, -, e⟩ | ⟨-, e⟩ | ⟨hkq, hfq, -⟩ | ⟨-, e⟩ | ⟨-, -, e⟩ := hq
    · exact absurd e.symm (unitKey_ne _ _ 0).2.2
    · cases e
    · simp [addressee, hkp, hfp, hkq, hfq]
    all_goals cases e
  · have hp0 : kindOf p.header ≠ 0#4 := by
      obtain h | h := hkp <;> simp [h]
    rw [addressee_of_kind hp0]
    obtain ⟨-, -, e⟩ | ⟨-, e⟩ | ⟨-, -, e⟩ | ⟨hkq, e⟩ | ⟨-, -, e⟩ := hq
    · exact absurd e.symm (unitKey_ne _ _ _).2.1
    · cases e
    · cases e
    · have hq0 : kindOf q.header ≠ 0#4 := by
        obtain h | h := hkq <;> simp [h]
      rw [addressee_of_kind hq0]
      have hi := Key.hilCoef.inj e
      obtain hkp | ⟨hkp, hfp⟩ := hkp <;> obtain hkq | ⟨hkq, hfq⟩ := hkq <;> simp_all [IsSubmit]
    · cases e
  · rw [addressee_of_kind (h := p.header) (by simp [hkp])]
    obtain ⟨-, -, e⟩ | ⟨-, e⟩ | ⟨-, -, e⟩ | ⟨-, e⟩ | ⟨hkq, -, e⟩ := hq
    · obtain ⟨hk, hi⟩ := unitKey_eq_dcr e.symm
      exact .inr ⟨hi.symm, .inr (.inr (.inr (.inr (.inl ⟨hkp, hk, hdp⟩))))⟩
    · cases e
    · cases e
    · cases e
    · rw [addressee_of_kind (h := q.header) (by simp [hkq])]
      simp_all [IsSubmit]

/-- The key of the unit a packet is addressed to. -/
theorem unitKey_mem_keysOf {s : State} {before : List Packet} {p : Packet} {k : BitVec 4} (hk : k.toNat < 11)
    (h : (addressee p.header).1 = k) : unitKey k (addressee p.header).2 ∈ keysOf s before p := by
  refine mem_keysOf.mpr (.inl ⟨fun hs => ?_, mem_unitKeys.mpr ⟨h ▸ hk.le, by rw [h]⟩⟩)
  rw [addressee_of_submit hs] at h
  simp [← h] at hk

/-- Packets of a pair of instances that share state have a common key. -/
theorem SharedPair.common_key {s : State} {j k : Nat} {p q : Packet} (h : SharedPair s j p k q) :
    ∃ x, x ∈ keysOf s (s.cmd.take j) p ∧ x ∈ keysOf s (s.cmd.take k) q := by
  obtain ⟨hi, h⟩ := h
  have inst (r : Packet) (k : BitVec 4) (hk : k ≠ 0#4) (hr : kindOf r.header = k) :
      (addressee r.header).2 = instOf r.header := by
    rw [addressee_of_kind (hr ▸ hk)]
  obtain ⟨hp, hq⟩ | ⟨hp, hq⟩ | ⟨hp, hq, hf⟩ | ⟨hp, hf, hq⟩ | ⟨hp, hq, hd⟩ | ⟨hp, hq, hd⟩ := h
  · exact ⟨_, unitKey_mem_keysOf (by decide) hp, hi ▸ unitKey_mem_keysOf (k := 7#4) (by decide) hq⟩
  · exact ⟨_, unitKey_mem_keysOf (by decide) hp, hi ▸ unitKey_mem_keysOf (k := 8#4) (by decide) hq⟩
  · rw [inst p _ (by decide) hp, inst q _ (by decide) hq] at hi
    exact ⟨.hilCoef (instOf p.header), mem_keysOf.mpr (by simp [hp]), mem_keysOf.mpr (by simp [hq, hf, hi])⟩
  · rw [inst p _ (by decide) hp, inst q _ (by decide) hq] at hi
    exact ⟨.hilCoef (instOf p.header), mem_keysOf.mpr (by simp [hp, hf]), mem_keysOf.mpr (by simp [hq, hi])⟩
  · rw [inst p _ (by decide) hp] at hi
    exact ⟨_, mem_keysOf.mpr (by simp [hp, dcenAt_iff.mpr hd, unitKey_dcr]),
      hi ▸ unitKey_mem_keysOf (k := 6#4) (by decide) hq⟩
  · rw [inst q _ (by decide) hq] at hi
    exact ⟨_, unitKey_mem_keysOf (k := 6#4) (by decide) hp,
      mem_keysOf.mpr (by simp [hq, dcenAt_iff.mpr hd, hi, unitKey_dcr])⟩

/-- What the drains between their phases hold. -/
theorem mem_heldByDrains {s : State} {x : Key} (h : x ∈ heldByDrains s) :
    ∃ c, (s.cop.at c).inflight.isSome = true ∧ (x = .draining ∨ x = .consumer c) := by
  cases hd : drainingChannels s with
  | nil => simp [heldByDrains_nil hd] at h
  | cons c cs =>
    have hin (d : Inst) (h : d ∈ c :: cs) : (s.cop.at d).inflight.isSome = true :=
      (mem_drainingChannels s d).mp (hd ▸ h)
    rw [heldByDrains, hd] at h
    obtain rfl | hx := List.mem_cons.mp h
    · exact ⟨c, hin c List.mem_cons_self, .inl rfl⟩
    · obtain ⟨d, hm, rfl⟩ := List.mem_map.mp hx
      exact ⟨d, hin d hm, .inr rfl⟩

theorem consumer_mem_heldByDrains {s : State} {c : Inst} (h : (s.cop.at c).inflight.isSome = true) :
    Key.consumer c ∈ heldByDrains s := by
  rw [← mem_drainingChannels] at h
  unfold heldByDrains
  split
  next hd => simp [hd] at h
  · exact List.mem_cons_of_mem _ (List.mem_map_of_mem h)

/-- A packet with a key that a drain holds waits for it. -/
theorem waitsForDrain_of_held {s : State} {before : List Packet} {q : Packet} {x : Key} (hx : x ∈ keysOf s before q)
    (h : x ∈ heldByDrains s) : WaitsForDrain s q.header := by
  obtain ⟨c, hc, h⟩ := mem_heldByDrains h
  refine ⟨c, hc, ?_⟩
  rw [mem_keysOf, mem_unitKeys] at hx
  obtain ⟨hs, -, rfl⟩ | ⟨-, rfl⟩ | ⟨hk, hf, -⟩ | ⟨-, rfl⟩ | ⟨-, -, rfl⟩ := hx
  · obtain h | h := h
    · exact absurd h (unitKey_ne _ _ 0).2.2
    · obtain ⟨hk, hi⟩ := unitKey_eq_consumer h
      exact .inl ⟨Prod.ext hk hi, hs⟩
  · simp at h
  · exact .inr ⟨hk, hf⟩
  · simp at h
  · simp at h

/-- A packet may come next exactly when no key of it is held by a drain or is one of an earlier packet. -/
theorem issue_mem_choices_iff {s : State} {k : Nat} {q : Packet} (hq : s.cmd[k]? = some q) :
    Choice.issue k ∈ choices s ↔ ∀ x ∈ keysOf s (s.cmd.take k) q, x ∉ heldByDrains s ∧
      ∀ (j : Nat) (p : Packet), j < k → s.cmd[j]? = some p → x ∉ keysOf s (s.cmd.take j) p := by
  rw [issue_mem_choices, mem_readyFrom_iff]
  constructor
  · rintro ⟨k', q', e, hq', h⟩
    obtain rfl : k' = k := by omega
    obtain rfl := Option.some.inj (hq'.symm.trans hq)
    exact h
  · exact fun h => ⟨k, q, (Nat.zero_add k).symm, hq, h⟩

theorem finish_mem_choices {s : State} {c : Inst} :
    Choice.finish c ∈ choices s ↔ (s.cop.at c).inflight.isSome = true := by
  simp [choices, mem_drainingChannels]

/-- Settles O9: two packets share a key exactly when they share a unit or state. -/
theorem sharedPairsOrderedOthersFree : Obligations.SharedPairsOrderedOthersFree := by
  refine ⟨fun s j k p q hjk hp hq hs hc => ?_, fun s k q hq hw hfree => ?_, fun s c hc => finish_mem_choices.mpr hc⟩
  · obtain ⟨x, hxp, hxq⟩ := hs.common_key
    exact ((issue_mem_choices_iff hq).mp hc x hxq).2 j p hjk hp hxp
  · refine (issue_mem_choices_iff hq).mpr fun x hx => ⟨fun hh => hw (waitsForDrain_of_held hx hh), ?_⟩
    intro j p hjk hp hxp
    obtain ⟨ht, hs⟩ := hfree j p hjk hp
    exact (sameTarget_or_sharedPair hxp hx).elim ht hs

end Sys2Proof.Machine
end

section
/-! SUPPORT. Every step keeps the invariant (R29 to R39): a legal unit stays legal under what each command makes of
it, and the one command that would break the invariant between the phases of a drain, `COP.DETACH`, is not executed
there. -/

namespace Sys2Proof.Machine

/-! Units. -/

section Units

variable {P : Params} {σ : Type}

theorem firLoaded_ok {s : State} {c : List F32} {d : BitVec 10} (h : firstError (firLoadChecks s c d) = none)
    {v : Variant} (hv : IvarOk s.params v) (z : σ) : FirOk s.params (firLoaded v d c z) := by
  simp only [firLoadChecks, firstError_none_iff, List.forall_mem_cons, decide_eq_false_iff_not, not_or] at h
  obtain ⟨⟨h0, h1, h2⟩, hd, -⟩ := h
  exact ⟨by simp only [firLoaded]; omega, by simp only [firLoaded]; omega, hd, by simp [firLoaded], hv⟩

theorem FirOk.resid {u : Fir σ} (h : FirOk P u) (hc : u.constructed = true) {r : List σ}
    (hr : r.length = u.resid.length) : FirOk P { u with resid := r } := by
  rw [FirOk, if_pos hc] at *
  obtain ⟨h1, h2, h3, h4, h5⟩ := h
  exact ⟨h1, h2, h3, hr.trans h4, h5⟩

theorem firCleared_ok {u : Fir σ} (h : FirOk P u) (z : σ) : FirOk P (firCleared u z) := by
  by_cases hc : u.constructed = true
  · rw [firCleared, if_pos hc]
    exact h.resid hc List.length_replicate
  · rwa [firCleared, if_neg hc]

theorem hbLoaded_ok {s : State} {c : List F32} (h : firstError (hbLoadChecks s c) = none) {v : Variant}
    (hv : IvarOk s.params v) (z : σ) : HbOk s.params (hbLoaded v c z) := by
  simp only [hbLoadChecks, firstError_none_iff, List.forall_mem_cons, decide_eq_false_iff_not, not_not,
    Bool.not_eq_false'] at h
  obtain ⟨⟨h0, h1, h2⟩, hb, -⟩ := h
  exact ⟨h0, h1, h2, hb, by simp [hbLoaded], hv⟩

theorem HbOk.resid {u : Hb σ} (h : HbOk P u) (hc : u.constructed = true) {r : List σ}
    (hr : r.length = u.resid.length) : HbOk P { u with resid := r } := by
  rw [HbOk, if_pos hc] at *
  obtain ⟨h1, h2, h3, h4, h5, h6⟩ := h
  exact ⟨h1, h2, h3, h4, hr.trans h5, h6⟩

theorem hbCleared_ok {u : Hb σ} (h : HbOk P u) (z : σ) : HbOk P (hbCleared u z) := by
  by_cases hc : u.constructed = true
  · rw [hbCleared, if_pos hc]
    exact h.resid hc List.length_replicate
  · rwa [hbCleared, if_neg hc]

theorem hilLoaded_ok {c : List F32} (h : firstError (hilLoadChecks c) = none) {v : Variant} (hv : IvarOk P v) :
    HilOk P (hilLoaded v c) := by
  simp only [hilLoadChecks, firstError_none_iff, List.forall_mem_cons, decide_eq_false_iff_not, not_not,
    Bool.not_eq_false'] at h
  exact ⟨h.1, h.2.1, List.length_replicate, List.length_replicate, hv⟩

theorem HilOk.resid {u : Hil} (h : HilOk P u) (hc : u.constructed = true) {ri rq : List F32} (hi : ri.length = 11)
    (hq : rq.length = 23) (par : Bool) : HilOk P { u with residI := ri, residQ := rq, par := par } := by
  rw [HilOk, if_pos hc] at *
  obtain ⟨h1, h2, -, -, h5⟩ := h
  exact ⟨h1, h2, hi, hq, h5⟩

theorem hilAdvanced_ok {u : Hil} (h : HilOk P u) (hc : u.constructed = true) (r : List Cplx) :
    HilOk P (hilAdvanced u r) := by
  have h' := h
  rw [HilOk, if_pos hc] at h'
  obtain ⟨-, -, hi, hq, -⟩ := h'
  exact h.resid hc ((length_nextResid ..).trans hi) ((length_nextResid ..).trans hq) _

theorem DcrOk.avg {u : Dcr} (h : DcrOk P u) (hc : u.constructed = true) (a : F32) : DcrOk P { u with avg := a } := by
  rw [DcrOk, if_pos hc] at *
  exact h

theorem NcoOk.phase {u : Nco} (h : NcoOk P u) (hc : u.constructed = true) (p : Word) :
    NcoOk P { u with phase := p } := by
  rw [NcoOk, if_pos hc] at *
  exact h

theorem ncoCleared_ok {u : Nco} (h : NcoOk P u) : NcoOk P (ncoCleared u) := by
  by_cases hc : u.constructed = true
  · rw [ncoCleared, if_pos hc]
    exact h.phase hc 0
  · rwa [ncoCleared, if_neg hc]

theorem FmdOk.prev {u : Fmd} (h : FmdOk P u) (hc : u.constructed = true) (i q : F32) :
    FmdOk P { u with prevI := i, prevQ := q } := by
  rw [FmdOk, if_pos hc] at *
  exact h

theorem fmdCleared_ok {u : Fmd} (h : FmdOk P u) : FmdOk P (fmdCleared u) := by
  by_cases hc : u.constructed = true
  · rw [fmdCleared, if_pos hc]
    exact h.prev hc _ _
  · rwa [fmdCleared, if_neg hc]

end Units

/-- A latched variant is legal (R147). -/
theorem State.Inv.latch {s : State} (h : s.Inv) (k : Fin 9) : IvarOk s.params (s.latch k) := by
  obtain ⟨-, -, hv⟩ := h.sys
  refine ⟨latch_ne_uncalibrated s k, ?_⟩
  unfold State.latch
  split
  · exact Nat.zero_le _
  · next hne => exact (hv k).resolve_left hne

/-- A unit that is not as at reset exists. -/
theorem State.Inv.hasInst_nco {s : State} (h : s.Inv) {i : Inst} (hc : (s.nco.at i).constructed = true) :
    s.hasInst .nco i = true := by
  obtain ⟨-, -, -, -, -, -, hp, -⟩ := h.pastEnd i
  by_contra hn
  rw [hp (Bool.eq_false_of_not_eq_true hn)] at hc
  cases hc

theorem State.Inv.hasInst_dcr {s : State} (h : s.Inv) {i : Inst} (hc : (s.dcr.at i).constructed = true) :
    s.hasInst .dcr i = true := by
  obtain ⟨-, -, -, -, -, hp, -⟩ := h.pastEnd i
  by_contra hn
  rw [hp (Bool.eq_false_of_not_eq_true hn)] at hc
  cases hc

theorem State.Inv.hasInst_cop {s : State} (h : s.Inv) {i : Inst} (hc : (s.cop.at i).opened = true) :
    s.hasInst .cop i = true := by
  obtain ⟨-, -, -, -, -, -, -, -, -, -, hp⟩ := h.pastEnd i
  by_contra hn
  rw [hp (Bool.eq_false_of_not_eq_true hn)] at hc
  cases hc

/-! Commands. -/

/-- A next state, if this is one, meets the invariant. -/
def KeepsInv (o : Host.Outcome State Fault Refusal) : Prop := ∀ t, o = .next t → t.Inv

theorem KeepsInv.next {t : State} (h : t.Inv) : KeepsInv (.next t) := fun _ e => Host.Outcome.next.inj e ▸ h

theorem KeepsInv.command {s t : State} (h : s.Inv) {id : CmdId} {cs : List (Bool × Status)} (hcs : ∀ c ∈ cs, c.2 ≠ .ok)
    (ht : firstError cs = none → t.Inv) : KeepsInv (s.command id cs t) := by
  intro u hu
  obtain ⟨hn, rfl⟩ | ⟨e, he, rfl⟩ := command_cases hu
  · exact ht hn
  · obtain ⟨c, hc, -, rfl⟩ := firstError_some he
    exact h.raise (hcs c hc) id

theorem firstError_instCheck_none {s : State} {k : Kind} {i : Inst} {cs : List (Bool × Status)} :
    firstError (instCheck s k i :: cs) = none ↔ s.hasInst k i = true ∧ firstError cs = none := by
  rw [firstError_instCheck]
  split <;> simp [*]

/-- A command of one unit that answers at once: its slot is there, and its own checks have passed. -/
theorem KeepsInv.unit {s t : State} (h : s.Inv) {id : CmdId} {k : Kind} {i : Inst} {cs : List (Bool × Status)} {n : Nat}
    {ws : List Word} (hcs : ∀ c ∈ cs, c.2 ≠ .ok) (ht : s.hasInst k i = true → firstError cs = none → t.Inv) :
    KeepsInv (s.command id (instCheck s k i :: cs) (t.answer n ws)) := by
  refine .command h (List.forall_mem_cons.mpr ⟨by simp, hcs⟩) fun hc => ?_
  obtain ⟨hi, hc⟩ := firstError_instCheck_none.mp hc
  exact (ht hi hc).respond .ok n ws

theorem State.Inv.hilCleared {s : State} (h : s.Inv) {i : Inst} (hi : s.hasInst .hil i = true) :
    (s.putHil i (hilCleared (s.hil.at i))).Inv := by
  by_cases hc : (s.hil.at i).constructed = true
  · rw [Machine.hilCleared, if_pos hc]
    exact h.putHil hi ((h.hil i).resid hc List.length_replicate List.length_replicate _) hc
  · rwa [Machine.hilCleared, if_neg hc, State.putHil, Bank.put_at]

theorem State.Inv.dcrCleared {s : State} (h : s.Inv) {i : Inst} (hi : s.hasInst .dcr i = true) :
    (s.putDcr i (dcrCleared (s.dcr.at i))).Inv := by
  by_cases hc : (s.dcr.at i).constructed = true
  · rw [Machine.dcrCleared, if_pos hc]
    exact h.putDcr hi ((h.dcr i).avg hc _) (by exact hc)
  · rwa [Machine.dcrCleared, if_neg hc, State.putDcr, Bank.put_at]

theorem State.Inv.clearFlags {s : State} (h : s.Inv) (v : Word) :
    (s.putSys { s.sys with errflags := clearFlags s.sys.errflags v }).Inv := by
  obtain ⟨he, hl, hv⟩ := h.sys
  refine h.putSys ⟨?_, hl, hv⟩
  rw [Machine.clearFlags, BitVec.and_assoc, BitVec.and_comm (~~~_), ← BitVec.and_assoc, he, BitVec.zero_and]

theorem State.Inv.setVariant {s : State} (h : s.Inv) (k : Fin 9) {x : Variant}
    (hx : x = .uncalibrated ∨ x.code ≤ s.params.hwMaxVariant) :
    (s.putSys { s.sys with variant := s.sys.variant.set k.val x k.isLt }).Inv := by
  obtain ⟨he, hl, hv⟩ := h.sys
  refine h.putSys ⟨he, hl, fun j => ?_⟩
  by_cases hj : k = j
  · subst hj
    simpa using hx
  · have hne : k.val ≠ j.val := fun e => hj (Fin.ext e)
    simpa [hne] using hv j

theorem writeSys_keeps {s : State} (h : s.Inv) (id : CmdId) (n : Nat) (v : Word) : KeepsInv (writeSys s id n v) := by
  obtain e | ⟨-, e⟩ | ⟨k, x, -, hx, e⟩ := writeSys_cases s id n v
  · exact e ▸ .next (h.raise (by decide) id)
  · exact e ▸ .next ((h.clearFlags v).respond .ok 0 [])
  · exact e ▸ .next ((h.setVariant k (writableVariant_ok hx).2).respond .ok 0 [])

/-- What the invariant says of an opened channel does not depend on `GAIN` and `FINC`. -/
theorem writeCop_keeps {s : State} (h : s.Inv) (id : CmdId) {i : Inst} (hi : s.hasInst .cop i = true) (n : Nat)
    (v : Word) : KeepsInv (writeCop s id i n v) := by
  have hq := h.cop i
  obtain ⟨_, he, e⟩ | ⟨ho, -, e⟩ | ⟨ho, -, e⟩ := writeCop_cases s id i n v
  · exact e ▸ .next (h.raise he id)
  · rw [CopOk, if_pos ho] at hq
    exact e ▸ .next ((h.putCop hi (by rw [CopOk, if_pos (by exact ho)]; exact hq)).respond .ok 0 [])
  · rw [CopOk, if_pos ho] at hq
    exact e ▸ .next ((h.putCop hi (by rw [CopOk, if_pos (by exact ho)]; exact hq)).respond .ok 0 [])

theorem execSysRdreg_keeps {s : State} (h : s.Inv) (i : Inst) (rk : BitVec 4) (n : BitVec 8) :
    KeepsInv (execSysRdreg i rk n s) := by
  obtain ⟨-, e⟩ | ⟨_, v, -, e⟩ := execSysRdreg_cases i rk n s
  · exact e ▸ .next (h.raise (by decide) _)
  · exact e ▸ .next (h.respond .ok 0 [v])

theorem execSysWrreg_keeps {s : State} (h : s.Inv) (i : Inst) (rk : BitVec 4) (n : BitVec 8) (v : Word) :
    KeepsInv (execSysWrreg i rk n v s) := by
  unfold execSysWrreg
  dsimp only
  split
  · exact .next (h.raise (by decide) _)
  · exact writeSys_keeps h _ _ _
  · exact writeCop_keeps h _ (addressed_eq_some.mp ‹_›).2.1 _ _
  · exact .next (h.raise (by decide) _)

/-! The iterator. -/

theorem length_rawBytes (ws : List Word) : (rawBytes ws).length = 4 * ws.length := by
  induction ws with
  | nil => rfl
  | cons w ws ih =>
    rw [rawBytes, List.flatMap_cons, List.length_append, ← rawBytes, ih, List.length_cons]
    simp only [bytesOfWord, List.length_cons, List.length_nil]
    omega

/-- A freshly opened iterator is legal: the checks of R353 say so. -/
theorem dbiOpened_ok {s : State} {i : Inst} {n : BitVec 22} {flags lo hi : Word} {ri rq : List F32} {raw : List Word}
    (hc : dbiCountOk n flags ri rq raw = true) (h : firstError (dbiOpenChecks s i n flags raw) = none) :
    DbiOk s.params (dbiOpened s.params n flags lo hi ri rq raw) (s.hil.at i) (s.dcr.at i) := by
  simp only [dbiCountOk, Bool.and_eq_true, decide_eq_true_eq] at hc
  obtain ⟨⟨hri, hrq⟩, hraw⟩ := hc
  simp only [dbiOpenChecks, firstError_none_iff, List.forall_mem_cons, decide_eq_false_iff_not, not_or, not_not,
    Bool.and_eq_false_imp, Bool.not_eq_true', Bool.not_eq_false', Nat.not_lt] at h
  obtain ⟨-, hp, hm, hl, ⟨hmax, hmod⟩, -, -, hh, hd, -⟩ := h
  have hlen : ((rawBytes raw).take n.toNat).length = n.toNat := by
    rw [List.length_take, length_rawBytes, hraw, rawWords]
    omega
  refine ⟨?_, hlen.trans_le hmax, Nat.zero_le _, ?_, hp, fun hdc => ?_, hh, hd⟩
  · exact hlen.trans (Nat.div_mul_cancel (Nat.dvd_of_mod_eq_zero hmod)).symm
  · simp only [dbiOpened, hri, hrq, hl]
  · by_contra hne
    simp only [dbiOpened] at hdc hne
    rw [hm (Bool.eq_false_of_not_eq_true hne)] at hdc
    cases hdc

/-- An open iterator after a fragment. -/
theorem DbiOk.advance {P : Params} {u : Dbi} {g : Hil} {d : Dcr} (h : DbiOk P u g d) (ho : u.isOpen = true)
    (hlt : u.pos < u.nfrag) {ri rq : List F32} (hi : ri.length = u.residI.length) (hq : rq.length = u.residQ.length) :
    DbiOk P { u with pos := u.pos + 1, residI := ri, residQ := rq } g d := by
  rw [DbiOk, if_pos ho] at h
  rw [DbiOk, if_pos (by exact ho)]
  obtain ⟨h1, h2, -, h4, h5⟩ := h
  exact ⟨h1, h2, hlt, by rw [hi, hq]; exact h4, h5⟩

/-- A fragment keeps the invariant; with `DCEN` the DC removal unit is constructed (R362). -/
theorem dbiAdvance_keeps {s : State} (h : s.Inv) {i : Inst} (hi : s.hasInst .dbi i = true)
    (ho : (s.dbi.at i).isOpen = true) (hlt : (s.dbi.at i).pos < (s.dbi.at i).nfrag) : (dbiAdvance s i).Inv := by
  cases hm : (s.dbi.at i).mode with
  | false =>
    rw [dbiAdvance_native hm]
    exact (h.putDbi hi ((h.dbi i).advance ho hlt rfl rfl)).respond .ok _ _
  | true =>
    unfold dbiAdvance
    dsimp only
    rw [if_pos hm]
    obtain ⟨-, hri, hrq⟩ := realPath_lengths s.params (s.hil.at i).coef (s.dbi.at i).dcen (s.dcr.at i).alpha
      (s.dcr.at i).avg (s.dbi.at i).residI (s.dbi.at i).residQ
      (fragmentPairs s.params (s.dbi.at i).packed (s.dbi.at i).raw (s.dbi.at i).pos)
    have hs := h.putDbi hi ((h.dbi i).advance ho hlt hri hrq)
    refine State.Inv.respond ?_ .ok _ _
    split
    next hdc =>
      have hd := h.dbi i
      rw [DbiOk, if_pos ho] at hd
      obtain ⟨-, -, -, -, -, -, -, hd⟩ := hd
      have hcon := hd hdc
      exact hs.putDcr (h.hasInst_dcr hcon) ((h.dcr i).avg hcon _) hcon
    next => exact hs

/-! The channel. -/

/-- A submission keeps the queue invariants (R39). -/
theorem copSubmitStep_keeps {s : State} (h : s.Inv) {c : Inst} (hi : s.hasInst .cop c = true)
    (ho : (s.cop.at c).opened = true) {b : Block} (hb : b.data.length ≤ s.params.maxBlock) :
    (copSubmitStep s c b).Inv := by
  have hq := h.cop c
  rw [CopOk, if_pos ho] at hq
  obtain ⟨h1, h2, h3, h4, h5, h6, h7, h8, h9, h10⟩ := hq
  obtain ⟨hl, e⟩ | ⟨hl, e⟩ := copSubmitStep_cases s c b
  · have hs : (s.putCop c { s.cop.at c with drops := satInc (s.cop.at c).drops, ovf := true }).Inv := by
      refine h.putCop hi ?_
      rw [CopOk, if_pos (by exact ho)]
      exact ⟨h1, h2, h3, h4, h5, h6, fun _ => hl ▸ h2, h8, h9, h10⟩
    rw [e]
    split
    · exact hs.respond .ok _ _
    · exact (hs.emit _ _).respond .ok _ _
  · rw [e]
    have hlen : ((s.cop.at c).queue ++ [b]).length ≤ (s.cop.at c).capacity.toNat := by
      rw [List.length_append, List.length_singleton]
      omega
    refine State.Inv.respond (h.putCop hi ?_) .ok _ _
    rw [CopOk, if_pos (by exact ho)]
    refine ⟨h1, h2, h3, h4, h5, hlen, fun hv => ?_, h8, ?_, h10⟩
    · rw [List.length_append]
      exact (h7 hv).trans (Nat.le_add_right ..)
    · exact List.forall_mem_append.mpr ⟨h9, List.forall_mem_singleton.mpr hb⟩

/-- A dequeue keeps the queue invariants: the flag is cleared below `RECOVERY` (R39, R311). -/
theorem drainDequeue_keeps {s : State} (h : s.Inv) {c : Inst} (hi : s.hasInst .cop c = true)
    (ho : (s.cop.at c).opened = true) (m : Nat) : (drainDequeue s c m).Inv := by
  have hq := h.cop c
  rw [CopOk, if_pos ho] at hq
  obtain ⟨h1, h2, h3, h4, h5, h6, h7, h8, h9, h10⟩ := hq
  have hdrop : ((s.cop.at c).queue.drop m).length ≤ (s.cop.at c).capacity.toNat := by
    rw [List.length_drop]
    omega
  have hkeep : ∀ b ∈ (s.cop.at c).queue.drop m, b.data.length ≤ s.params.maxBlock := fun b hb =>
    h9 b (List.mem_of_mem_drop hb)
  have hfly : ∀ b ∈ (s.cop.at c).queue.take m, b.data.length ≤ s.params.maxBlock := fun b hb =>
    h9 b (List.mem_of_mem_take hb)
  obtain ⟨-, e⟩ | ⟨hv, e⟩ := drainDequeue_cases s c m
  · rw [e]
    refine State.Inv.emit (h.putCop hi ?_) _ _
    rw [CopOk, if_pos (by exact ho)]
    exact ⟨h1, h2, h3, h4, h5, hdrop, fun hf => Bool.noConfusion hf, h8, hkeep, hfly⟩
  · rw [e]
    refine h.putCop hi ?_
    rw [CopOk, if_pos (by exact ho)]
    refine ⟨h1, h2, h3, h4, h5, hdrop, fun hf => ?_, h8, hkeep, hfly⟩
    have hovf : (s.cop.at c).ovf = true := hf
    simpa [ovfClears, hovf] using hv

/-- Reassembly keeps `FILL` below `OUTBLK` (R39). -/
theorem assemble_length_lt {q : Cop} (ts : Stamp) (x : List Cplx) (h : q.asm.length < q.outblk.toNat) :
    (assemble q ts x).1.asm.length < q.outblk.toNat := by
  induction x generalizing q with
  | nil => exact h
  | cons v vs ih =>
    simp only [assemble]
    split
    · exact ih (q := { q with asm := [], asmTs := _ }) (Nat.zero_lt_of_lt h)
    next hne =>
      refine ih (q := { q with asm := q.asm ++ [v], asmTs := _ }) ?_
      rw [List.length_append, List.length_singleton] at *
      exact Nat.lt_of_le_of_ne h hne

/-- A channel in the middle of a drain, with a new reassembly buffer, counter and phase. -/
theorem CopOk.processed {P : Params} {q : Cop} (h : CopOk P q) (ho : q.opened = true) {asm : List Cplx}
    (ha : asm.length < q.outblk.toNat) (ts : Stamp) (phase errs : Word) :
    CopOk P { q with asm := asm, asmTs := ts, fphase := phase, blkerr := errs } := by
  rw [CopOk, if_pos ho] at h
  rw [CopOk, if_pos (by exact ho)]
  obtain ⟨h1, h2, h3, h4, h5, h6, h7, -, h9, h10⟩ := h
  exact ⟨h1, h2, h3, h4, h5, h6, h7, ha, h9, h10⟩

theorem drainBlock_keeps {c : Inst} {a : State × List OutBlock} (h : a.1.Inv) (ho : (a.1.cop.at c).opened = true)
    (b : Block) : (drainBlock c a b).1.Inv ∧ ((drainBlock c a b).1.cop.at c).opened = true := by
  obtain ⟨s, out⟩ := a
  have hq := h.cop c
  have hq' := hq
  rw [CopOk, if_pos ho] at hq'
  obtain ⟨-, -, -, -, -, -, -, hasm, -⟩ := hq'
  have hi := h.hasInst_cop ho
  obtain ⟨-, e⟩ | ⟨-, e⟩ := drainBlock_cases c s out b
  · rw [e]
    exact ⟨(h.putCop hi (hq.processed ho hasm _ _ _)).logError (by decide) _, by simpa using ho⟩
  · rw [e, processBlock_frame]
    refine ⟨(h.putCop hi (hq.processed ho ?_ _ _ _)).emit _ _, by simpa using ho⟩
    exact assemble_length_lt (q := { s.cop.at c with fphase := _ }) _ _ hasm

theorem drainBlocks_keeps {c : Inst} {a : State × List OutBlock} (h : a.1.Inv) (ho : (a.1.cop.at c).opened = true)
    (bs : List Block) : (bs.foldl (drainBlock c) a).1.Inv ∧ ((bs.foldl (drainBlock c) a).1.cop.at c).opened = true := by
  induction bs generalizing a with
  | nil => exact ⟨h, ho⟩
  | cons b bs ih =>
    obtain ⟨h', ho'⟩ := drainBlock_keeps h ho b
    exact ih h' ho'

/-- Phase 2 of a drain keeps the invariant; on a channel that is not opened there is nothing in flight. -/
theorem finishDrain_keeps {s : State} (h : s.Inv) (c : Inst) : (finishDrain s c).Inv := by
  cases ho : (s.cop.at c).opened with
  | true =>
    obtain ⟨hr, hro⟩ := drainBlocks_keeps (a := (s, [])) h ho ((s.cop.at c).inflight.getD [])
    have hq := hr.cop c
    rw [CopOk, if_pos hro] at hq
    refine State.Inv.respond (hr.putCop (hr.hasInst_cop hro) ?_) .ok _ _
    rw [CopOk, if_pos (by exact hro)]
    obtain ⟨h1, h2, h3, h4, h5, h6, h7, h8, h9, -⟩ := hq
    exact ⟨h1, h2, h3, h4, h5, h6, h7, h8, h9, by simp⟩
  | false =>
    have hq := h.cop c
    rw [CopOk, if_neg (by simp [ho])] at hq
    have hsame : s.putCop c { s.cop.at c with inflight := none } = s := by
      rw [show { s.cop.at c with inflight := none } = s.cop.at c by rw [hq]; rfl, State.putCop, Bank.put_at]
    simp only [finishDrain, show (s.cop.at c).inflight = none by rw [hq]; rfl]
    exact (hsame.symm ▸ h).respond .ok _ _

/-! The commands, and the step. -/

theorem copOpen_keeps {s : State} (h : s.Inv) {c : Inst} {cap rec out : Word} (hi : s.hasInst .cop c = true)
    (hc : firstError (copOpenChecks s c cap rec out) = none) :
    (s.putCop c (copOpened (s.cop.at c) cap rec out)).Inv := by
  obtain ⟨ho, h1, h2, h3, h4, h5⟩ := copOpenChecks_pass.mp hc
  have hq := h.cop c
  rw [CopOk, if_neg (by simp [ho])] at hq
  refine h.putCop hi ⟨h1, h2, h3, h4, h5, Nat.zero_le _, fun hv => Bool.noConfusion hv, h4, ?_, ?_⟩
  · simp [copOpened, Cop.reset]
  rw [hq]
  simp [copOpened, Cop.reset]

/-- A channel with nothing in flight is detached into its reset state (R325). -/
theorem copDetach_keeps {s : State} (h : s.Inv) {c : Inst} (hi : s.hasInst .cop c = true)
    (hf : (s.cop.at c).inflight = none) : (s.putCop c { Cop.reset with inflight := (s.cop.at c).inflight }).Inv :=
  h.putCop hi (by rw [hf]; rfl)

/-- Every command keeps the invariant; `COP.DETACH` where its channel has nothing in flight. -/
theorem exec_keeps {s : State} (h : s.Inv) (i : Instr)
    (hdet : ∀ c, i = .copDetach c → (s.cop.at c).inflight = none) : KeepsInv (exec i s) := by
  cases i with
  | sysNop => exact .next (h.respond .ok 0 [])
  | sysRdreg a rk n => exact execSysRdreg_keeps h a rk n
  | sysWrreg a rk n v => exact execSysWrreg_keeps h a rk n v
  | sysReset => exact .next ((cleared_inv h.params ..).respond .ok 0 [])
  | firrLoad a d c =>
    exact .unit h (by simp [firLoadChecks]) fun hi hc => h.putFirr hi (firLoaded_ok hc (h.latch 0) _)
  | firrProc a x =>
    exact .unit h (by simp [procChecks]) fun hi hc =>
      h.putFirr hi ((h.firr a).resid (procChecks_pass.mp hc).1 (length_nextResid ..))
  | firrClr a => exact .unit h (by simp) fun hi _ => h.putFirr hi (firCleared_ok (h.firr a) _)
  | fircLoad a d c =>
    exact .unit h (by simp [firLoadChecks]) fun hi hc => h.putFirc hi (firLoaded_ok hc (h.latch 1) _)
  | fircProc a x =>
    exact .unit h (by simp [procChecks]) fun hi hc =>
      h.putFirc hi ((h.firc a).resid (procChecks_pass.mp hc).1 (length_nextResid ..))
  | fircClr a => exact .unit h (by simp) fun hi _ => h.putFirc hi (firCleared_ok (h.firc a) _)
  | hbrLoad a c =>
    exact .unit h (by simp [hbLoadChecks]) fun hi hc => h.putHbr hi (hbLoaded_ok hc (h.latch 2) _)
  | hbrProc a x =>
    exact .unit h (by simp [procChecks]) fun hi hc =>
      h.putHbr hi ((h.hbr a).resid (procChecks_pass.mp hc).1 (length_nextResid ..))
  | hbrClr a => exact .unit h (by simp) fun hi _ => h.putHbr hi (hbCleared_ok (h.hbr a) _)
  | hbcLoad a c =>
    exact .unit h (by simp [hbLoadChecks]) fun hi hc => h.putHbc hi (hbLoaded_ok hc (h.latch 3) _)
  | hbcProc a x =>
    exact .unit h (by simp [procChecks]) fun hi hc =>
      h.putHbc hi ((h.hbc a).resid (procChecks_pass.mp hc).1 (length_nextResid ..))
  | hbcClr a => exact .unit h (by simp) fun hi _ => h.putHbc hi (hbCleared_ok (h.hbc a) _)
  | hilLoad a c =>
    exact .unit h (by simp [hilLoadChecks]) fun hi hc => h.putHil hi (hilLoaded_ok hc (h.latch 4)) rfl
  | hilProc a r =>
    refine .unit h (by simp [procChecks]) fun hi hc => ?_
    have hcon := (procChecks_pass.mp hc).1
    exact h.putHil hi (hilAdvanced_ok (h.hil a) hcon r) hcon
  | hilClr a => exact .unit h (by simp) fun hi _ => h.hilCleared hi
  | dcrLoad a alpha =>
    exact .unit h (by simp) fun hi _ => h.putDcr (u := ⟨true, _, _, _⟩) hi (h.latch 5) rfl
  | dcrProc a x =>
    refine .unit h (by simp [procChecks]) fun hi hc => ?_
    have hcon := (procChecks_pass.mp hc).1
    exact h.putDcr hi ((h.dcr a).avg hcon _) (by exact hcon)
  | dcrClr a => exact .unit h (by simp) fun hi _ => h.dcrCleared hi
  | ncoLoad a inc => exact .unit h (by simp) fun hi _ => h.putNco (u := ⟨true, _, _, _⟩) hi (h.latch 6)
  | ncoGen a n =>
    exact .unit h (by simp [procChecks]) fun hi hc => h.putNco hi ((h.nco a).phase (procChecks_pass.mp hc).1 _)
  | ncoClr a => exact .unit h (by simp) fun hi _ => h.putNco hi (ncoCleared_ok (h.nco a))
  | mixLoad a =>
    exact .unit h (by simp [instCheck]) fun hi _ => h.putMix (u := ⟨true, _⟩) hi (h.latch 7)
  | mixProc a x =>
    refine .unit h (by simp [procChecks]) fun _ hc => ?_
    rw [firstError_cons] at hc
    split at hc
    · cases hc
    · have hcon := (procChecks_pass.mp hc).1
      exact h.putNco (h.hasInst_nco hcon) ((h.nco a).phase hcon _)
  | fmdLoad a => exact .unit h (by simp) fun hi _ => h.putFmd (u := ⟨true, _, _, _⟩) hi (h.latch 8)
  | fmdProc a x =>
    exact .unit h (by simp [procChecks]) fun hi hc => h.putFmd hi ((h.fmd a).prev (procChecks_pass.mp hc).1 _ _)
  | fmdClr a => exact .unit h (by simp) fun hi _ => h.putFmd hi (fmdCleared_ok (h.fmd a))
  | dbiOpen a n flags lo hi ri rq raw =>
    refine .command h (by simp [instCheck, dbiOpenChecks]) fun hc => ?_
    rw [firstError_cons] at hc
    split at hc
    · cases hc
    next hcount =>
      obtain ⟨hi, hc⟩ := firstError_instCheck_none.mp hc
      exact (h.putDbi hi (dbiOpened_ok (by simpa using hcount) hc)).respond .ok 0 []
  | dbiNext a =>
    refine .command h (by simp [instCheck]) fun hc => ?_
    simp only [firstError_none_iff, List.forall_mem_cons, instCheck_fst, Bool.not_eq_false',
      decide_eq_false_iff_not, Nat.not_le] at hc
    obtain ⟨hi, ho, hlt, -⟩ := hc
    exact dbiAdvance_keeps h hi ho hlt
  | dbiClr a => exact .unit h (by simp) fun hi _ => h.putDbi (u := Dbi.reset) hi rfl
  | dbiResid a => exact .unit h (by simp) fun _ _ => h
  | copOpen a cap rec out =>
    exact .unit h (by simp [copOpenChecks]) fun hi hc => copOpen_keeps h hi hc
  | copSubmit a lo hi x =>
    refine .command h (by simp [instCheck]) fun hc => ?_
    simp only [firstError_none_iff, List.forall_mem_cons, instCheck_fst, Bool.not_eq_false',
      decide_eq_false_iff_not, Nat.not_lt] at hc
    obtain ⟨hi, ho, hlen, -⟩ := hc
    exact copSubmitStep_keeps h hi ho hlen
  | copDrain a m =>
    refine .command h (by simp [instCheck]) fun hc => ?_
    simp only [firstError_none_iff, List.forall_mem_cons, instCheck_fst, Bool.not_eq_false'] at hc
    obtain ⟨hi, ho, -⟩ := hc
    exact drainDequeue_keeps h hi ho _
  | copDetach a => exact .unit h (by simp) fun hi _ => copDetach_keeps h hi (hdet a rfl)

/-- A packet that is `COP.DETACH` says so in its header (R102, R103). -/
theorem header_of_copDetach {p : Packet} {c : Inst} (h : decode p = .ok (.copDetach c)) :
    kindOf p.header = 11#4 ∧ funcOf p.header = 3#2 ∧ instOf p.header = c := by
  have hop : (opcodeOf p.header).toNat = 47 ∧ instOf p.header = c := by
    unfold decode at h
    dsimp only at h
    split at h <;> simp at h
    next hop => exact ⟨hop, h.2.2⟩
  refine ⟨BitVec.eq_of_toNat_eq ?_, BitVec.eq_of_toNat_eq ?_, hop.2⟩
  · rw [kindOf_toNat, hop.1]
    rfl
  · rw [funcOf_toNat, hop.1]
    rfl

/-- `COP.DETACH` is not executed between the phases of a drain of its channel (R85, R312). -/
theorem inflight_of_copDetach {s : State} {j : Nat} {p : Packet} {c : Inst} (hc : Choice.issue j ∈ choices s)
    (hp : s.cmd[j]? = some p) (hd : decode p = .ok (.copDetach c)) : (s.cop.at c).inflight = none := by
  obtain ⟨hk, hf, rfl⟩ := header_of_copDetach hd
  have hkey : Key.consumer (instOf p.header) ∈ keysOf s (s.cmd.take j) p := by
    simp [keysOf, hk, hf]
  have hfree := ((issue_mem_choices_iff hp).mp hc _ hkey).1
  by_contra hne
  refine hfree (consumer_mem_heldByDrains (Option.isSome_iff_ne_none.mpr hne))

/-- Executing a packet keeps the invariant, but for `COP.DETACH` between the phases of a drain. -/
theorem runPacket_keeps {s : State} (h : s.Inv) {p : Packet}
    (hdet : ∀ c, decode p = .ok (.copDetach c) → (s.cop.at c).inflight = none) : KeepsInv (runPacket s p) := by
  unfold runPacket
  split
  next i hi => exact exec_keeps h i fun c hc => hdet c (hc ▸ hi)
  next r _ =>
    refine .next (h.raise ?_ _)
    cases r <;> simp [Reject.status]

/-- A possible step keeps the invariant, whatever the arbiter's counter shows. -/
theorem takeChoice_keeps {s : State} (h : s.Inv) {c : Choice} (hc : c ∈ choices s) (n : Nat) :
    KeepsInv (takeChoice { s with picks := n } c) := by
  cases c with
  | finish c => exact .next (finishDrain_keeps (h.ports s.cmd s.rsp s.notif n) c)
  | issue j =>
    rw [takeChoice, issueAt]
    split
    · exact .next (h.ports s.cmd s.rsp s.notif n)
    next p hp => exact runPacket_keeps (h.ports _ s.rsp s.notif n) fun d => inflight_of_copDetach (s := s) hc hp

/-- Settles O20: of every possible step (`takeChoice_keeps`), so of the one the arbiter picks. -/
theorem stepKeepsInvariant : Obligations.StepKeepsInvariant := by
  intro s t h ht
  unfold step advance at ht
  split at ht
  · exact Host.Outcome.next.inj ht ▸ h
  next c hc => exact takeChoice_keeps h (hc ▸ List.mem_singleton_self c) s.picks t ht
  next c cs _ hc =>
    have hlt : Config.pick s.picks % (cs.length + 1) < (c :: cs).length := Nat.mod_lt _ (Nat.succ_pos _)
    rw [List.getD_eq_getElem _ _ hlt] at ht
    exact takeChoice_keeps h (by rw [hc]; exact List.getElem_mem hlt) (s.picks + 1) t ht

end Sys2Proof.Machine
end

section
/-! SUPPORT. The opcode table and the decoder (R103, R108): a row is selected by an opcode and by immediate bits that
must be zero, and the decoder asks the same of the header and then counts the words. -/

namespace Sys2Proof

open Sys2Proof.Laws.Encoded

/-! Selection. -/

/-- A row of an opcode, with the bits of `INST` and `IMM` that must be zero. -/
theorem selects_mkHeader (m : String) (op : BitVec 6) (mi : Inst) (mm : BitVec 22) (h : Word) :
    (OpRow.mk m (mkHeader op 0 0) (mkHeader (BitVec.allOnes 6) mi mm)).selects h = true ↔
      opcodeOf h = op ∧ instOf h &&& mi = 0 ∧ immOf h &&& mm = 0 := by
  rw [OpRow.selects, decide_eq_true_iff]
  conv_lhs => rw [← mkHeader_fields h]
  rw [mkHeader_and, and_full]
  constructor
  · intro e
    exact ⟨by simpa using congrArg opcodeOf e, by simpa using congrArg instOf e, by simpa using congrArg immOf e⟩
  · rintro ⟨rfl, hi, hm⟩
    rw [hi, hm]

/-- A row whose whole immediate is an operand. -/
theorem selects_opcode (m : String) (op : BitVec 6) (h : Word) (ho : opcodeOf h = op) :
    (OpRow.mk m (mkHeader op 0 0) 0xFC000000).selects h = true := by
  rw [show (0xFC000000 : Word) = mkHeader (BitVec.allOnes 6) 0 0 by decide, selects_mkHeader]
  simp [ho]

/-- A row whose immediate is zero. -/
theorem selects_noImm (m : String) (op : BitVec 6) (h : Word) (ho : opcodeOf h = op) :
    (OpRow.mk m (mkHeader op 0 0) 0xFC3FFFFF).selects h = decide (immOf h = 0#22) := by
  rw [Bool.eq_iff_iff, show (0xFC3FFFFF : Word) = mkHeader (BitVec.allOnes 6) 0 (BitVec.allOnes 22) by decide,
    selects_mkHeader, BitVec.and_allOnes]
  simp [ho]

/-- A row whose upper ten immediate bits are zero. -/
theorem selects_shortImm (m : String) (op : BitVec 6) (h : Word) (ho : opcodeOf h = op) :
    (OpRow.mk m (mkHeader op 0 0) 0xFC3FF000).selects h = decide (decimOf h = 0#10) := by
  rw [Bool.eq_iff_iff, show (0xFC3FF000 : Word) = mkHeader (BitVec.allOnes 6) 0 0x3FF000#22 by decide,
    selects_mkHeader, ← immTaps_fields h, show (0x3FF000#22 : BitVec 22) = BitVec.allOnes 10 ++ 0#12 by decide,
    immTaps_and, BitVec.and_allOnes, BitVec.and_zero]
  have hz : decimOf h ++ 0#12 = 0#10 ++ 0#12 ↔ decimOf h = 0#10 := BitVec.append_left_inj _
  simpa [ho] using hz

/-! The decoder, row by row. -/

/-- A packet with a legal header is told by its words (R72). -/
theorem sized_true (p : Packet) (n : Nat) (i : Instr) :
    p.sized true n i = if p.body.length = n then .ok i else .error (.wrongCount p.header) := rfl

/-- Where the header has the row's opcode, the packet is the row's command, its header checked by the row and its words
counted. -/
def RowDecodes (r : OpRow) : Prop :=
  ∀ p : Packet, opcodeOf p.header = opcodeOf r.value →
    ∃ i, decode p = p.sized (r.selects p.header) (bodyWords p.header (p.body.getD 0 0)) i ∧ i.mnemonic = r.mnemonic

/-- The same with the row's part of the header check known, for a row of opcode `op`. -/
def DecodesAs (m : String) (op : BitVec 6) (legal : Word → Bool) : Prop :=
  ∀ p : Packet, opcodeOf p.header = op →
    ∃ i, decode p = p.sized (legal p.header) (bodyWords p.header (p.body.getD 0 0)) i ∧ i.mnemonic = m

theorem RowDecodes.of_legal {m : String} {op : BitVec 6} {mask : Word} {legal : Word → Bool}
    (h : DecodesAs m op legal) (hl : ∀ w, opcodeOf w = op → (OpRow.mk m (mkHeader op 0 0) mask).selects w = legal w) :
    RowDecodes ⟨m, mkHeader op 0 0, mask⟩ := by
  intro p ho
  rw [opcodeOf_mkHeader] at ho
  rw [hl _ ho]
  exact h p ho

theorem RowDecodes.opcode {m : String} (op : BitVec 6) (h : DecodesAs m op fun _ => true) :
    RowDecodes ⟨m, mkHeader op 0 0, 0xFC000000⟩ := .of_legal h (selects_opcode m op)

theorem RowDecodes.noImm {m : String} (op : BitVec 6) (h : DecodesAs m op fun w => decide (immOf w = 0#22)) :
    RowDecodes ⟨m, mkHeader op 0 0, 0xFC3FFFFF⟩ := .of_legal h (selects_noImm m op)

theorem RowDecodes.shortImm {m : String} (op : BitVec 6) (h : DecodesAs m op fun w => decide (decimOf w = 0#10)) :
    RowDecodes ⟨m, mkHeader op 0 0, 0xFC3FF000⟩ := .of_legal h (selects_shortImm m op)

/-- A row that fixes the whole header. -/
theorem selects_header (m : String) (v h : Word) : (OpRow.mk m v 0xFFFFFFFF).selects h = decide (h = v) := by
  rw [OpRow.selects, show (0xFFFFFFFF : Word) = BitVec.allOnes 32 by decide, BitVec.and_allOnes]

theorem rowDecodes_sysNop : RowDecodes ⟨"SYS.NOP", 0x00000000, 0xFFFFFFFF⟩ :=
  .of_legal (op := 0) (legal := fun w => decide (w = 0#32))
    (fun p ho => ⟨.sysNop, by simp [decode, bodyWords, ho], rfl⟩) fun w _ => selects_header _ _ w

theorem rowDecodes_sysReset : RowDecodes ⟨"SYS.RESET", 0x0C000000, 0xFFFFFFFF⟩ := by
  refine .of_legal (op := 3) (legal := fun w => decide (instOf w = 0#4) && decide (immOf w = 0#22)) ?_ fun w ho => ?_
  · exact fun p ho => ⟨.sysReset, by simp [decode, bodyWords, ho], rfl⟩
  · rw [Bool.eq_iff_iff,
      show (0xFFFFFFFF : Word) = mkHeader (BitVec.allOnes 6) (BitVec.allOnes 4) (BitVec.allOnes 22) by decide,
      selects_mkHeader, BitVec.and_allOnes, BitVec.and_allOnes]
    simp [ho]

/-- Every row of the table, with its opcode and the immediate bits it leaves free (R103, R104). -/
theorem rowDecodes_of_mem : ∀ r ∈ opRows, RowDecodes r := by
  simp only [opRows, opRowsA, opRowsB, opRowsC, List.cons_append, List.nil_append, List.forall_mem_cons,
    List.not_mem_nil, false_implies, implies_true, and_true]
  refine ⟨rowDecodes_sysNop, .shortImm 1 ?_, .shortImm 2 ?_, rowDecodes_sysReset, .opcode 4 ?_, .opcode 5 ?_,
    .noImm 6 ?_, .opcode 8 ?_, .opcode 9 ?_, .noImm 10 ?_, .shortImm 12 ?_, .opcode 13 ?_, .noImm 14 ?_,
    .shortImm 16 ?_, .opcode 17 ?_, .noImm 18 ?_, .shortImm 20 ?_, .opcode 21 ?_, .noImm 22 ?_, .noImm 24 ?_,
    .opcode 25 ?_, .noImm 26 ?_, .noImm 28 ?_, .opcode 29 ?_, .noImm 30 ?_, .noImm 32 ?_, .opcode 33 ?_,
    .noImm 36 ?_, .opcode 37 ?_, .noImm 38 ?_, .opcode 40 ?_, .noImm 41 ?_, .noImm 42 ?_, .noImm 43 ?_,
    .noImm 44 ?_, .opcode 45 ?_, .opcode 46 ?_, .noImm 47 ?_⟩ <;>
    exact fun p ho => by
      simp only [decode, bodyWords, ho, BitVec.ofNat_eq_ofNat, BitVec.reduceToNat]
      exact ⟨_, rfl, rfl⟩

/-! The opcodes of the table. -/

/-- The table's opcodes, one row each (R103). -/
theorem map_opcodeOf_opRows : opRows.map (fun r => (opcodeOf r.value).toNat) =
    [0, 1, 2, 3, 4, 5, 6, 8, 9, 10, 12, 13, 14, 16, 17, 18, 20, 21, 22, 24, 25, 26, 28, 29, 30, 32, 33, 36, 37, 38,
      40, 41, 42, 43, 44, 45, 46, 47] := by decide

/-- Rows of one opcode are one row. -/
theorem row_eq_of_opcode {r₁ r₂ : OpRow} (h₁ : r₁ ∈ opRows) (h₂ : r₂ ∈ opRows)
    (h : opcodeOf r₁.value = opcodeOf r₂.value) : r₁ = r₂ := by
  have hnodup : (opRows.map fun r => (opcodeOf r.value).toNat).Nodup := by
    rw [map_opcodeOf_opRows]
    decide
  exact List.inj_on_of_nodup_map hnodup h₁ h₂ (congrArg BitVec.toNat h)

/-- A row selects headers of its own opcode. -/
theorem opcodeOf_of_selects {r : OpRow} (hr : r ∈ opRows) {h : Word} (hs : r.selects h = true) :
    opcodeOf h = opcodeOf r.value := by
  have hmask : ∀ r ∈ opRows, opcodeOf r.mask = BitVec.allOnes 6 := by decide
  rw [← decide_eq_true_iff.mp hs, ← mkHeader_fields h, ← mkHeader_fields r.mask, mkHeader_and, hmask r hr, and_full]
  simp

/-- A packet whose opcode is no row's is illegal (R108). -/
theorem decode_of_no_row {p : Packet} (h : ∀ r ∈ opRows, opcodeOf p.header ≠ opcodeOf r.value) :
    decode p = .error (.illegalHeader p.header) := by
  have hn : (opcodeOf p.header).toNat ∉ opRows.map fun r => (opcodeOf r.value).toNat := fun hm => by
    obtain ⟨r, hr, e⟩ := List.mem_map.mp hm
    exact h r hr (BitVec.eq_of_toNat_eq e.symm)
  rw [map_opcodeOf_opRows] at hn
  unfold decode
  dsimp only
  generalize (opcodeOf p.header).toNat = n at hn
  split
  case h_39 => rfl
  all_goals exact absurd (by decide) hn

/-- What the decoder makes of a packet: it has a row of its opcode, which checks the header, or it is illegal. -/
theorem decode_cases (p : Packet) :
    (∃ r ∈ opRows, opcodeOf p.header = opcodeOf r.value ∧ ∃ i, i.mnemonic = r.mnemonic ∧
      decode p = p.sized (r.selects p.header) (bodyWords p.header (p.body.getD 0 0)) i) ∨
    ((∀ r ∈ opRows, r.selects p.header = false) ∧ decode p = .error (.illegalHeader p.header)) := by
  by_cases h : ∃ r ∈ opRows, opcodeOf p.header = opcodeOf r.value
  · obtain ⟨r, hr, ho⟩ := h
    obtain ⟨i, hd, hm⟩ := rowDecodes_of_mem r hr p ho
    exact .inl ⟨r, hr, ho, i, hm, hd⟩
  · simp only [not_exists, not_and] at h
    exact .inr ⟨fun r hr => Bool.eq_false_iff.mpr fun hs => h r hr (opcodeOf_of_selects hr hs), decode_of_no_row h⟩

/-- Settles O4: the one row of a packet's opcode decides (`decode_cases`). -/
theorem tableDecidesDecoding : Obligations.TableDecidesDecoding := by
  have unique (h : Word) (r₁ r₂ : OpRow) (h₁ : r₁ ∈ opRows) (h₂ : r₂ ∈ opRows) (s₁ : r₁.selects h = true)
      (s₂ : r₂.selects h = true) : r₁ = r₂ :=
    row_eq_of_opcode h₁ h₂ ((opcodeOf_of_selects h₁ s₁).symm.trans (opcodeOf_of_selects h₂ s₂))
  refine ⟨fun p => ?_, unique, fun p r hr hs => ?_⟩
  · obtain ⟨r, hr, ho, i, -, hd⟩ | ⟨hno, hd⟩ := decode_cases p
    · rw [hd]
      cases hs : r.selects p.header with
      | true =>
        refine iff_of_false (fun e => ?_) fun hno => by simp [hno r hr] at hs
        rw [sized_true] at e
        split at e <;> cases e
      | false =>
        refine iff_of_true rfl fun r' hr' => Bool.eq_false_iff.mpr fun hs' => ?_
        obtain rfl := row_eq_of_opcode hr hr' (ho.symm.trans (opcodeOf_of_selects hr' hs'))
        simp [hs] at hs'
    · exact iff_of_true hd hno
  · obtain ⟨i, hd, hm⟩ := rowDecodes_of_mem r hr p (opcodeOf_of_selects hr hs)
    rw [hd, hs, sized_true]
    split
    · exact ⟨i, rfl, hm⟩
    · rfl

/-- A packet is rejected for its own header or for its words. -/
theorem decode_error {p : Packet} {r : Reject} (h : decode p = .error r) :
    r = .illegalHeader p.header ∨ r = .wrongCount p.header := by
  obtain ⟨row, -, -, i, -, hd⟩ | ⟨-, hd⟩ := decode_cases p
  · obtain ⟨-, -, e⟩ | ⟨-, -, e⟩ | ⟨-, e⟩ :=
      sized_cases p (row.selects p.header) (bodyWords p.header (p.body.getD 0 0)) i
    · cases h.symm.trans (hd.trans e)
    · exact .inr (Except.error.inj (h.symm.trans (hd.trans e)))
    · exact .inl (Except.error.inj (h.symm.trans (hd.trans e)))
  · exact .inl (Except.error.inj (h.symm.trans hd))

end Sys2Proof
end

section
/-! SUPPORT. The scheduler: what a possible step waits for (R85, R90, R452), that a step is a possible one (R86, R430),
and what a packet that is no command comes to (R72, R108). -/

namespace Sys2Proof.Machine

/-! Order. -/

/-- Two packets addressed to one unit and one side of it have a common key. -/
theorem SameTarget.common_key {s : State} {p q : Packet} (h : SameTarget p.header q.header) (bp bq : List Packet) :
    ∃ x, x ∈ keysOf s bp p ∧ x ∈ keysOf s bq q := by
  obtain ⟨hk, h0 | ⟨hle, hi, hside⟩⟩ := h
  · exact ⟨.sys, unitKey_mem_keysOf (k := 0#4) (by decide) h0, unitKey_mem_keysOf (k := 0#4) (by decide) (hk ▸ h0)⟩
  · by_cases hs : IsSubmit p.header
    · rw [addressee_of_submit hs, addressee_of_submit (hside.mp hs)] at hi
      obtain hi : instOf p.header = instOf q.header := hi
      exact ⟨_, mem_keysOf.mpr (.inr (.inl ⟨hs, rfl⟩)), mem_keysOf.mpr (.inr (.inl ⟨hside.mp hs, by rw [hi]⟩))⟩
    · exact ⟨_, mem_keysOf.mpr (.inl ⟨hs, mem_unitKeys.mpr ⟨hle, rfl⟩⟩),
        mem_keysOf.mpr (.inl ⟨mt hside.mpr hs, mem_unitKeys.mpr ⟨hk ▸ hle, by rw [hk, hi]⟩⟩)⟩

theorem draining_mem_heldByDrains {s : State} {c : Inst} (h : (s.cop.at c).inflight.isSome = true) :
    Key.draining ∈ heldByDrains s := by
  rw [← mem_drainingChannels] at h
  unfold heldByDrains
  split
  next hd => simp [hd] at h
  · exact List.mem_cons_self

/-- A packet that waits for a drain has a key that the drain holds. -/
theorem WaitsForDrain.held_key {s : State} {q : Packet} (h : WaitsForDrain s q.header) (before : List Packet) :
    ∃ x ∈ keysOf s before q, x ∈ heldByDrains s := by
  obtain ⟨c, hc, ⟨ha, hs⟩ | ⟨hk, hf⟩⟩ := h
  · refine ⟨.consumer c, mem_keysOf.mpr (.inl ⟨hs, ?_⟩), consumer_mem_heldByDrains hc⟩
    rw [ha]
    exact mem_unitKeys.mpr ⟨Nat.le_refl 11, rfl⟩
  · exact ⟨.draining, mem_keysOf.mpr (.inr (.inr (.inl ⟨hk, hf, rfl⟩))), draining_mem_heldByDrains hc⟩

/-- A packet that waits for a drain is no possible step. -/
theorem not_waitsForDrain_of_choice {s : State} {k : Nat} {q : Packet} (hq : s.cmd[k]? = some q)
    (hc : Choice.issue k ∈ choices s) : ¬WaitsForDrain s q.header := fun hw => by
  obtain ⟨x, hx, hheld⟩ := hw.held_key (s.cmd.take k)
  exact ((issue_mem_choices_iff hq).mp hc x hx).1 hheld

/-- Settles O8: packets of one target have a common key, and a packet that waits for a drain has one that the drain
holds. -/
theorem sameInstanceInOrder : Obligations.SameInstanceInOrder := by
  refine ⟨fun s j k p q hjk hp hq ht hc => ?_, fun s k q hq hw hc => not_waitsForDrain_of_choice hq hc hw⟩
  obtain ⟨x, hxp, hxq⟩ := ht.common_key (s.cmd.take j) (s.cmd.take k)
  exact ((issue_mem_choices_iff hq).mp hc x hxq).2 j p hjk hp hxp

/-! Choice. -/

/-- While there is work there is a possible step: phase 2 of a drain, or else the first packet. -/
theorem choices_ne_nil {s : State} (h : s.cmd ≠ [] ∨ drainingChannels s ≠ []) : choices s ≠ [] := by
  by_cases hd : drainingChannels s = []
  · obtain ⟨p, ps, hcmd⟩ := List.exists_cons_of_ne_nil (h.resolve_right fun hne => hne hd)
    refine List.ne_nil_of_mem (a := .issue 0) ((issue_mem_choices s 0).mpr ?_)
    rw [heldByDrains_nil hd, hcmd]
    exact zero_mem_readyFrom ..
  · simp [choices, hd]

/-- A step with a choice takes one of the possible steps; the arbiter's counter goes up when there were several. -/
theorem step_of_choices {s : State} (h : choices s ≠ []) :
    ∃ c ∈ choices s, ∃ n, (n = s.picks ∨ n = s.picks + 1) ∧ step s = takeChoice { s with picks := n } c := by
  unfold step advance
  split
  next hc => exact absurd hc h
  next c hc => exact ⟨c, hc ▸ List.mem_singleton_self c, s.picks, .inl rfl, rfl⟩
  next c cs _ hc =>
    have hlt : Config.pick s.picks % (cs.length + 1) < (c :: cs).length := Nat.mod_lt _ (Nat.succ_pos _)
    refine ⟨_, ?_, s.picks + 1, .inr rfl, rfl⟩
    rw [List.getD_eq_getElem _ _ hlt, hc]
    exact List.getElem_mem hlt

/-- Settles O7: an idle machine has no possible step, any other takes one. -/
theorem stepTakesAPossibleStep : Obligations.StepTakesAPossibleStep :=
  ⟨fun _ => step_idle, fun _ h => step_of_choices (choices_ne_nil h)⟩

/-! Rejected packets. -/

/-- Settles O6: the packet is the one possible step, and what it raises is the status of its rejection. -/
theorem stepAnswersARejectedPacket : Obligations.StepAnswersARejectedPacket := by
  intro s p r hcmd hd hr
  have hstep : step s = .next ({ s with cmd := [] }.raise (Reject.status r) (headerId (Reject.header r))) := by
    rw [step_of_single (choices_of_one_packet hcmd hd), takeChoice, issueAt_of_get (p := p) (by simp [hcmd]), runPacket,
      hr, hcmd]
    rfl
  rw [hstep]
  obtain rfl | rfl := decode_error hr <;> rfl

end Sys2Proof.Machine
end

section
/-! SUPPORT. Progress (R92): a command answers at once, but for `COP.DRAIN`, which sets its channel between the phases
of a drain; phase 2 answers for it; and while work is left there is a possible step. -/

namespace Sys2Proof.Machine

/-! What a command answers. -/

/-- From `s` to `t` one response was emitted, and `CMD` and the drains in progress stayed. -/
structure AnsweredOnce (s t : State) : Prop where
  cmd : t.cmd = s.cmd
  rsp : t.rsp.length = s.rsp.length + 1
  inflight : ∀ d, (t.cop.at d).inflight = (s.cop.at d).inflight

/-- A change of units that keeps the drains in progress, then a response. -/
theorem AnsweredOnce.respond {s t : State} {e : Status} {n : Nat} {ws : List Word} (hc : t.cmd = s.cmd)
    (hr : t.rsp = s.rsp) (hi : ∀ d, (t.cop.at d).inflight = (s.cop.at d).inflight) :
    AnsweredOnce s (t.respond e n ws) := ⟨hc, by simp [hr], hi⟩

theorem AnsweredOnce.raise (s : State) (e : Status) (id : CmdId) : AnsweredOnce s (s.raise e id) :=
  .respond (t := s.logError e id) rfl rfl fun _ => rfl

/-- One channel replaced, its drain in progress kept. -/
theorem inflight_putCop {s : State} {c : Inst} {q : Cop} (h : q.inflight = (s.cop.at c).inflight) (d : Inst) :
    ((s.putCop c q).cop.at d).inflight = (s.cop.at d).inflight := by
  rw [State.putCop_cop, Bank.at_put]
  split
  next hd => rw [h, hd]
  · rfl

/-- A change of units other than channels, then an answer. -/
theorem AnsweredOnce.unit {s t : State} {n : Nat} {ws : List Word} (hc : t.cmd = s.cmd) (hr : t.rsp = s.rsp)
    (hi : t.cop = s.cop) : AnsweredOnce s (t.answer n ws) := .respond hc hr fun _ => by rw [hi]

/-- One channel replaced, its drain in progress kept, then an answer. -/
theorem AnsweredOnce.channel {s : State} {c : Inst} {q : Cop} {n : Nat} {ws : List Word}
    (h : q.inflight = (s.cop.at c).inflight) : AnsweredOnce s ((s.putCop c q).answer n ws) :=
  .respond rfl rfl (inflight_putCop h)

/-- The outcome is a next state, with one response more. -/
abbrev Answers (s : State) (o : Host.Outcome State Fault Refusal) : Prop := ∃ t, o = .next t ∧ AnsweredOnce s t

theorem Answers.command {s t : State} {id : CmdId} {cs : List (Bool × Status)} (h : AnsweredOnce s t) :
    Answers s (s.command id cs t) := by
  cases he : firstError cs with
  | none => exact ⟨t, command_ok he, h⟩
  | some e => exact ⟨_, command_error he, .raise s e id⟩

theorem copSubmitStep_answers (s : State) (c : Inst) (b : Block) : AnsweredOnce s (copSubmitStep s c b) := by
  obtain ⟨-, h⟩ | ⟨-, h⟩ := copSubmitStep_cases s c b
  · rw [h]
    split
    · exact .channel rfl
    · exact .respond rfl rfl (inflight_putCop rfl)
  · rw [h]
    exact .channel rfl

theorem dbiAdvance_answers (s : State) (i : Inst) : AnsweredOnce s (dbiAdvance s i) := by
  unfold dbiAdvance
  dsimp only
  split
  · split <;> exact .unit rfl rfl rfl
  · exact .unit rfl rfl rfl

theorem execSysRdreg_answers (i : Inst) (rk : BitVec 4) (n : BitVec 8) (s : State) :
    Answers s (execSysRdreg i rk n s) := by
  obtain ⟨-, h⟩ | ⟨_, v, -, h⟩ := execSysRdreg_cases i rk n s
  · exact ⟨_, h, .raise ..⟩
  · exact ⟨_, h, .unit rfl rfl rfl⟩

theorem writeSys_answers (s : State) (id : CmdId) (n : Nat) (v : Word) : Answers s (writeSys s id n v) := by
  obtain h | ⟨-, h⟩ | ⟨_, _, -, -, h⟩ := writeSys_cases s id n v
  · exact ⟨_, h, .raise ..⟩
  · exact ⟨_, h, .unit rfl rfl rfl⟩
  · exact ⟨_, h, .unit rfl rfl rfl⟩

theorem writeCop_answers (s : State) (id : CmdId) (i : Inst) (n : Nat) (v : Word) :
    Answers s (writeCop s id i n v) := by
  obtain ⟨_, -, h⟩ | ⟨-, -, h⟩ | ⟨-, -, h⟩ := writeCop_cases s id i n v
  · exact ⟨_, h, .raise ..⟩
  · exact ⟨_, h, .channel rfl⟩
  · exact ⟨_, h, .channel rfl⟩

theorem execSysWrreg_answers (i : Inst) (rk : BitVec 4) (n : BitVec 8) (v : Word) (s : State) :
    Answers s (execSysWrreg i rk n v s) := by
  unfold execSysWrreg
  dsimp only
  split
  · exact ⟨_, rfl, .raise ..⟩
  · exact writeSys_answers ..
  · exact writeCop_answers ..
  · exact ⟨_, rfl, .raise ..⟩

/-- A drain begun: nothing emitted on `RSP`, its channel between the phases, the other channels as they were (R312). -/
structure DrainBegun (s t : State) (c : Inst) : Prop where
  cmd : t.cmd = s.cmd
  rsp : t.rsp = s.rsp
  inflight : (t.cop.at c).inflight.isSome = true
  others : ∀ d, d ≠ c → t.cop.at d = s.cop.at d

theorem drainDequeue_begun (s : State) (c : Inst) (m : Nat) : DrainBegun s (drainDequeue s c m) c := by
  obtain ⟨-, h⟩ | ⟨-, h⟩ := drainDequeue_cases s c m <;> rw [h] <;>
    exact ⟨rfl, rfl, by simp, fun d hd => by simp [hd]⟩

/-- A reset answers; with no drain in progress it loses none (R144, R452). -/
theorem resetUnits_answers {s : State} (h : ∀ c, (s.cop.at c).inflight.isSome = false) :
    AnsweredOnce s (s.resetUnits.answer 0 []) := by
  refine .respond rfl rfl fun d => ?_
  have hd : (s.cop.at d).inflight = none := by simpa using h d
  simp [hd, Cop.reset]

/-- What a command makes of its response: one at once; for a drain that is not refused, none yet; a reset is apart. -/
theorem exec_answers (i : Instr) (s : State) :
    Answers s (exec i s) ∨ (∃ c m t, i = .copDrain c m ∧ exec i s = .next t ∧ DrainBegun s t c) ∨ i = .sysReset :=
  match i with
  | .sysReset => .inr (.inr rfl)
  | .copDrain c m => by
    change Answers s (execCopDrain c m s) ∨ _
    unfold execCopDrain
    cases he : firstError [instCheck s .cop c, (!(s.cop.at c).opened, .notConstructed)] with
    | none => exact .inr (.inl ⟨c, m, _, rfl, command_ok he, drainDequeue_begun ..⟩)
    | some e => exact .inl ⟨_, command_error he, .raise ..⟩
  | .sysNop => .inl ⟨_, rfl, .unit rfl rfl rfl⟩
  | .sysRdreg .. => .inl (execSysRdreg_answers ..)
  | .sysWrreg .. => .inl (execSysWrreg_answers ..)
  | .dbiNext a => .inl (.command (dbiAdvance_answers s a))
  | .copSubmit .. => .inl (.command (copSubmitStep_answers ..))
  | .copOpen .. | .copDetach _ => .inl (.command (.channel rfl))
  | .firrLoad .. | .firrProc .. | .firrClr _ | .fircLoad .. | .fircProc .. | .fircClr _ | .hbrLoad .. | .hbrProc ..
  | .hbrClr _ | .hbcLoad .. | .hbcProc .. | .hbcClr _ | .hilLoad .. | .hilProc .. | .hilClr _ | .dcrLoad ..
  | .dcrProc .. | .dcrClr _ | .ncoLoad .. | .ncoGen .. | .ncoClr _ | .mixLoad _ | .mixProc .. | .fmdLoad _
  | .fmdProc .. | .fmdClr _ | .dbiOpen .. | .dbiClr _ | .dbiResid _ => .inl (.command (.unit rfl rfl rfl))

/-! How many drains are in progress. -/

theorem nodup_channels : channels.Nodup := by decide

theorem drainingChannels_congr {s t : State} (h : ∀ d, (t.cop.at d).inflight.isSome = (s.cop.at d).inflight.isSome) :
    drainingChannels t = drainingChannels s := by
  simp only [drainingChannels, h]

/-- Of two states that differ in one channel's drain, the one with the drain in progress has one more. -/
theorem length_drainingChannels {s t : State} {c : Inst} (hs : (s.cop.at c).inflight.isSome = false)
    (ht : (t.cop.at c).inflight.isSome = true)
    (h : ∀ d, d ≠ c → (t.cop.at d).inflight.isSome = (s.cop.at d).inflight.isSome) :
    (drainingChannels t).length = (drainingChannels s).length + 1 := by
  have hmem : c ∈ drainingChannels t := (mem_drainingChannels t c).mpr ht
  have herase : drainingChannels s = (drainingChannels t).erase c := by
    rw [drainingChannels, drainingChannels, (nodup_channels.filter _).erase_eq_filter, List.filter_filter]
    refine List.filter_congr fun d _ => ?_
    by_cases hd : d = c
    · simp [hd, hs]
    · simp [hd, h d hd]
  have := List.length_pos_of_mem hmem
  rw [herase, List.length_erase_of_mem hmem]
  omega

/-! The two commands apart, by their headers. -/

/-- A packet that decodes has the opcode of its command's row. -/
theorem opcodeOf_of_decode {p : Packet} {i : Instr} (h : decode p = .ok i) :
    ∃ r ∈ opRows, i.mnemonic = r.mnemonic ∧ opcodeOf p.header = opcodeOf r.value := by
  obtain ⟨r, hr, ho, j, hj, hd⟩ | ⟨-, hd⟩ := decode_cases p
  · obtain ⟨-, -, rfl⟩ := sized_ok.mp (hd.symm.trans h)
    exact ⟨r, hr, hj, ho⟩
  · cases h.symm.trans hd

theorem header_of_opcode {h : Word} {k : BitVec 4} {f : BitVec 2} (ho : opcodeOf h = k ++ f) :
    kindOf h = k ∧ funcOf h = f := by
  have hf := f.isLt
  have hn : (k ++ f).toNat = k.toNat * 4 + f.toNat := by
    rw [BitVec.toNat_append, ← Nat.shiftLeft_add_eq_or_of_lt hf, Nat.shiftLeft_eq]
  constructor
  · exact BitVec.eq_of_toNat_eq (by rw [kindOf_toNat, ho, hn]; omega)
  · exact BitVec.eq_of_toNat_eq (by rw [funcOf_toNat, ho, hn]; omega)

theorem header_of_sysReset {p : Packet} (h : decode p = .ok .sysReset) :
    kindOf p.header = 0#4 ∧ funcOf p.header = 3#2 := by
  obtain ⟨r, hr, hm, ho⟩ := opcodeOf_of_decode h
  have hrow : ∀ r ∈ opRows, "SYS.RESET" = r.mnemonic → opcodeOf r.value = 0#4 ++ 3#2 := by decide
  exact header_of_opcode (ho.trans (hrow r hr hm))

theorem header_of_copDrain {p : Packet} {c : Inst} {m : BitVec 22} (h : decode p = .ok (.copDrain c m)) :
    kindOf p.header = 11#4 ∧ funcOf p.header = 2#2 ∧ instOf p.header = c := by
  obtain ⟨r, hr, hm, ho⟩ := opcodeOf_of_decode h
  have hrow : ∀ r ∈ opRows, "COP.DRAIN" = r.mnemonic → opcodeOf r.value = 11#4 ++ 2#2 := by decide
  have hop := ho.trans (hrow r hr hm)
  obtain ⟨hk, hf⟩ := header_of_opcode hop
  have hfields : p.body.length = 0 ∧ instOf p.header = c ∧ immOf p.header = m := by
    simpa [decode, hop] using h
  exact ⟨hk, hf, hfields.2.1⟩

/-- No drain begins on a channel with one in progress (R85). -/
theorem inflight_of_copDrain {s : State} {j : Nat} {p : Packet} {c : Inst} {m : BitVec 22}
    (hc : Choice.issue j ∈ choices s) (hp : s.cmd[j]? = some p) (hd : decode p = .ok (.copDrain c m)) :
    (s.cop.at c).inflight.isSome = false := by
  obtain ⟨hk, hf, hi⟩ := header_of_copDrain hd
  refine Bool.eq_false_iff.mpr fun hs => not_waitsForDrain_of_choice hp hc ⟨c, hs, .inl ⟨?_, by simp [hf]⟩⟩
  rw [addressee_of_kind (by simp [hk]), hk, hi]

/-- No reset is executed while a drain is in progress (R452). -/
theorem inflight_of_sysReset {s : State} {j : Nat} {p : Packet} (hc : Choice.issue j ∈ choices s)
    (hp : s.cmd[j]? = some p) (hd : decode p = .ok .sysReset) (c : Inst) : (s.cop.at c).inflight.isSome = false :=
  Bool.eq_false_iff.mpr fun hs => not_waitsForDrain_of_choice hp hc ⟨c, hs, .inr (header_of_sysReset hd)⟩

/-! Steps. -/

/-- Responses emitted and still due: for each packet and each drain in progress one. -/
def responsesDue (s : State) : Nat := s.rsp.length + s.cmd.length + (drainingChannels s).length

/-- From `s` to `t` work was done, and each response due was emitted once or is still due. -/
structure Progress (s t : State) : Prop where
  work : workLeft t < workLeft s
  due : responsesDue t = responsesDue s

/-- Phase 2 of a drain answers it. -/
theorem finishDrain_progress {s : State} {c : Inst} (h : (s.cop.at c).inflight.isSome = true) :
    Progress s (finishDrain s c) := by
  have hsame (d : Inst) (hd : d ≠ c) : (finishDrain s c).cop.at d = s.cop.at d :=
    (sameSlot_finishDrain s c (k := .cop) (j := d) (by decide) (by simpa using hd) : _ = _).symm
  have hc : ((finishDrain s c).cop.at c).inflight.isSome = false := by simp [finishDrain]
  have hlen := length_drainingChannels hc h fun d hd => by rw [hsame d hd]
  obtain ⟨hcmd, hrsp⟩ : (finishDrain s c).cmd = s.cmd ∧ (finishDrain s c).rsp.length = s.rsp.length + 1 := by
    unfold finishDrain
    dsimp only
    rw [drainBlocks_frame]
    simp
  constructor
  · rw [workLeft, workLeft, hcmd]
    omega
  · rw [responsesDue, responsesDue, hcmd]
    omega

/-- A packet taken from `CMD` and answered at once. -/
theorem AnsweredOnce.progress {s t : State} {j n : Nat} (hj : j < s.cmd.length)
    (h : AnsweredOnce { s with picks := n, cmd := s.cmd.eraseIdx j } t) : Progress s t := by
  have hlen : t.cmd.length + 1 = s.cmd.length := by
    rw [h.cmd, List.length_eraseIdx_of_lt hj]
    omega
  have hrsp : t.rsp.length = s.rsp.length + 1 := h.rsp
  have hdrain : drainingChannels t = drainingChannels s := drainingChannels_congr fun d => by rw [h.inflight]
  constructor
  · rw [workLeft, workLeft, hdrain]
    omega
  · rw [responsesDue, responsesDue, hdrain]
    omega

/-- A drain begun: its packet is taken from `CMD`, its response still due. -/
theorem DrainBegun.progress {s t : State} {c : Inst} {j n : Nat} (hj : j < s.cmd.length)
    (hc : (s.cop.at c).inflight.isSome = false)
    (h : DrainBegun { s with picks := n, cmd := s.cmd.eraseIdx j } t c) : Progress s t := by
  have hlen : t.cmd.length + 1 = s.cmd.length := by
    rw [h.cmd, List.length_eraseIdx_of_lt hj]
    omega
  have hrsp : t.rsp = s.rsp := h.rsp
  have hdrain := length_drainingChannels hc h.inflight fun d hd => by rw [h.others d hd]
  constructor
  · rw [workLeft, workLeft]
    omega
  · rw [responsesDue, responsesDue, hrsp]
    omega

/-- A possible step makes progress. -/
theorem takeChoice_progress {s : State} {c : Choice} (hc : c ∈ choices s) (n : Nat) :
    ∃ t, takeChoice { s with picks := n } c = .next t ∧ Progress s t := by
  cases c with
  | finish c =>
    have hin := finish_mem_choices.mp hc
    have h := finishDrain_progress (s := { s with picks := n }) hin
    exact ⟨_, rfl, h.work, h.due⟩
  | issue j =>
    obtain ⟨k, p, hk, hp, -⟩ := mem_readyFrom_iff.mp ((issue_mem_choices s j).mp hc)
    obtain rfl : j = k := by omega
    have hj := (List.getElem?_eq_some_iff.mp hp).1
    rw [takeChoice, issueAt_of_get (s := { s with picks := n }) hp]
    cases hd : decode p with
    | error r =>
      rw [runPacket, hd]
      exact ⟨_, rfl, (AnsweredOnce.raise ..).progress hj⟩
    | ok i =>
      rw [runPacket_of_decode hd]
      obtain ⟨t, ht, h⟩ | ⟨c, m, t, rfl, ht, h⟩ | rfl :=
        exec_answers i { s with picks := n, cmd := s.cmd.eraseIdx j }
      · exact ⟨t, ht, h.progress hj⟩
      · exact ⟨t, ht, h.progress hj (inflight_of_copDrain hc hp hd)⟩
      · have hnone := inflight_of_sysReset hc hp hd
        exact ⟨_, rfl, AnsweredOnce.progress (n := n) hj (resetUnits_answers hnone)⟩

/-- Where work is left, a step does some of it. -/
theorem step_progress {s : State} (h : workLeft s ≠ 0) : ∃ t, step s = .next t ∧ Progress s t := by
  have hne : s.cmd ≠ [] ∨ drainingChannels s ≠ [] := by
    by_contra hno
    rw [not_or, not_not, not_not] at hno
    exact h (by simp [workLeft, hno])
  obtain ⟨c, hc, n, -, hs⟩ := step_of_choices (choices_ne_nil hne)
  rw [hs]
  exact takeChoice_progress hc n

/-- With as many steps as there is work, no work is left and each response due was emitted. -/
theorem steps_answer (n : Nat) (s : State) (h : workLeft s ≤ n) :
    workLeft (s.steps n) = 0 ∧ responsesDue (s.steps n) = responsesDue s := by
  induction n generalizing s with
  | zero => exact ⟨Nat.le_zero.mp h, rfl⟩
  | succ n ih =>
    obtain ⟨t, ht, hw, hdue⟩ : ∃ t, step s = .next t ∧ workLeft t ≤ n ∧ responsesDue t = responsesDue s := by
      by_cases h0 : workLeft s = 0
      · have hs : s.cmd = [] ∧ drainingChannels s = [] := by simpa [workLeft] using h0
        exact ⟨s, step_idle hs.1 hs.2, by omega, rfl⟩
      · obtain ⟨t, ht, hp⟩ := step_progress h0
        exact ⟨t, ht, by have := hp.work; omega, hp.due⟩
    rw [State.steps, ht]
    exact ⟨(ih t hw).1, (ih t hw).2.trans hdue⟩

/-- Settles O10, by the work left, which each step lessens, and the responses due, which each step keeps. -/
theorem everyPacketAnsweredOnce : Obligations.EveryPacketAnsweredOnce := by
  intro s
  obtain ⟨hw, hdue⟩ := steps_answer (workLeft s) s (Nat.le_refl _)
  have hidle : (s.steps (workLeft s)).cmd = [] ∧ drainingChannels (s.steps (workLeft s)) = [] := by
    simpa [workLeft] using hw
  refine ⟨hidle.1, hidle.2, ?_⟩
  simpa [responsesDue, hidle] using hdue

end Sys2Proof.Machine
end

section
/-! SUPPORT. The hand-off through the queue (R312, R88): a submission writes the queue, `OVF` and `DROPS` of its
channel, which phase 2 of a drain neither reads nor writes. -/

namespace Sys2Proof.Machine

/-! One submission. -/

/-- What a submission writes and answers (R303). -/
structure Submission where
  queue : List Block
  ovf : Bool
  drops : Word
  info : Nat
  events : List Event

/-- The submission of `b` to a channel: refused at capacity, with the event on the edge; else appended (R303, R307). -/
def Cop.submission (q : Cop) (b : Block) : Submission :=
  if q.queue.length = q.capacity.toNat then ⟨q.queue, true, satInc q.drops, 0, if q.ovf then [] else [.ovfEntered]⟩
  else ⟨q.queue ++ [b], q.ovf, q.drops, 1, []⟩

/-- The channel after a submission. -/
def Cop.submit (q : Cop) (m : Submission) : Cop := { q with queue := m.queue, ovf := m.ovf, drops := m.drops }

/-- `a` is `s` after a submission to channel `c`, up to the order of responses and of notifications. -/
structure Submitted (m : Submission) (c : Inst) (s a : State) : Prop where
  state : a = { s.putCop c ((s.cop.at c).submit m) with rsp := a.rsp, notif := a.notif }
  rsp : a.rsp.Perm (s.rsp ++ [[responseWord .ok m.info]])
  notif : a.notif.Perm (s.notif ++ m.events.map fun e => eventWord e c)

theorem copSubmitStep_submitted (s : State) (c : Inst) (b : Block) :
    Submitted ((s.cop.at c).submission b) c s (copSubmitStep s c b) := by
  obtain ⟨hl, h⟩ | ⟨hl, h⟩ := copSubmitStep_cases s c b
  · rw [Cop.submission, if_pos hl, h]
    cases (s.cop.at c).ovf
    · exact ⟨rfl, .refl _, .refl _⟩
    · exact ⟨rfl, .refl _, by simp⟩
  · rw [Cop.submission, if_neg hl, h]
    exact ⟨rfl, .refl _, by simp⟩

/-! Phase 2 before and after a submission. -/

/-- The channel with this in the reassembly buffer, its tag that of a block `ts` where the buffer was empty (R322). -/
def Cop.buffer (q : Cop) (ts : Stamp) (asm : List Cplx) : Cop :=
  { q with asm := asm, asmTs := if q.asm = [] then ts else q.asmTs }

/-- Reassembly of a sample: an output block completed, or one sample more in the buffer (R321). -/
theorem assemble_cons (q : Cop) (ts : Stamp) (v : Cplx) (vs : List Cplx) :
    assemble q ts (v :: vs) = if (q.asm ++ [v]).length = q.outblk.toNat then
        ((assemble (q.buffer ts []) ts vs).1,
          ⟨(q.buffer ts []).asmTs, q.asm ++ [v]⟩ :: (assemble (q.buffer ts []) ts vs).2)
      else assemble (q.buffer ts (q.asm ++ [v])) ts vs := rfl

/-- Reassembly does not see what a submission writes. -/
theorem assemble_submit (q : Cop) (m : Submission) (ts : Stamp) (x : List Cplx) :
    assemble (q.submit m) ts x = ((assemble q ts x).1.submit m, (assemble q ts x).2) := by
  induction x generalizing q with
  | nil => rfl
  | cons v vs ih =>
    have hbuf (asm : List Cplx) : (q.submit m).buffer ts asm = (q.buffer ts asm).submit m := rfl
    rw [assemble_cons, assemble_cons, hbuf, hbuf, ih, ih]
    by_cases hl : (q.asm ++ [v]).length = q.outblk.toNat
    · rw [if_pos hl]
      exact if_pos hl
    · rw [if_neg hl]
      exact if_neg hl

/-- A block is processed alike before and after a submission. -/
theorem processBlock_submit (P : Params) (q : Cop) (m : Submission) (d : Block) :
    processBlock P (q.submit m) d = ((processBlock P q d).1.submit m, (processBlock P q d).2) :=
  assemble_submit { q with fphase := correctedPhase q d.data.length } m d.ts (applyGain q.gain (correct P q d.data))

theorem perm_append_append_comm {α : Type} (x y z : List α) : (x ++ y ++ z).Perm (x ++ z ++ y) := by
  rw [List.append_assoc, List.append_assoc]
  exact List.perm_append_comm.append_left x

namespace Submitted

variable {m : Submission} {c : Inst} {s a : State}

theorem params (h : Submitted m c s a) : a.params = s.params := by
  rw [h.state]
  rfl

theorem channel (h : Submitted m c s a) : a.cop.at c = (s.cop.at c).submit m := by
  rw [h.state]
  simp

/-- The channel replaced, but for what a submission writes. -/
theorem putCop (h : Submitted m c s a) (q : Cop) : Submitted m c (s.putCop c q) (a.putCop c (q.submit m)) := by
  refine ⟨?_, h.rsp, h.notif⟩
  have hcop : a.cop.put c (q.submit m) = (s.cop.put c q).put c (((s.cop.put c q).at c).submit m) := by
    rw [h.state]
    simp [Bank.put_put]
  rw [State.putCop, hcop, h.state]
  rfl

/-- An error recorded in both. -/
theorem logError (h : Submitted m c s a) (e : Status) (id : CmdId) :
    Submitted m c (s.logError e id) (a.logError e id) := by
  refine ⟨?_, h.rsp, h.notif⟩
  have hsys : a.sys = s.sys := by
    rw [h.state]
    rfl
  rw [State.logError, hsys, h.state]
  rfl

/-- The same notifications after both. -/
theorem emit (h : Submitted m c s a) (es : List Event) : Submitted m c (s.emit es c) (a.emit es c) := by
  refine ⟨?_, h.rsp, ?_⟩
  · rw [State.emit, h.state]
    rfl
  · exact (h.notif.append_right _).trans (perm_append_append_comm ..)

/-- The same response after both. -/
theorem respond (h : Submitted m c s a) (e : Status) (n : Nat) (ws : List Word) :
    Submitted m c (s.respond e n ws) (a.respond e n ws) := by
  refine ⟨?_, ?_, h.notif⟩
  · rw [State.respond, h.state]
    rfl
  · exact (h.rsp.append_right _).trans (perm_append_append_comm ..)

/-- Phase 2 of a drain takes a block alike before and after a submission. -/
theorem drained {x y : State × List OutBlock} (h : Submitted m c x.1 y.1) (ho : y.2 = x.2) (d : Block) :
    Submitted m c (drainBlock c x d).1 (drainBlock c y d).1 ∧ (drainBlock c y d).2 = (drainBlock c x d).2 := by
  obtain ⟨s, out⟩ := x
  obtain ⟨a, out'⟩ := y
  obtain rfl : out = out' := ho.symm
  obtain ⟨hf, es⟩ | ⟨hf, es⟩ := drainBlock_cases c s out d
  · obtain ⟨-, ea⟩ | ⟨hf', -⟩ := drainBlock_cases c a out d
    · rw [es, ea, h.channel]
      exact ⟨(h.putCop _).logError .blockProcessing ⟨11, 2, c⟩, rfl⟩
    · cases hf.symm.trans (h.params ▸ hf')
  · obtain ⟨hf', -⟩ | ⟨-, ea⟩ := drainBlock_cases c a out d
    · cases hf.symm.trans (h.params ▸ hf')
    · rw [es, ea, h.params, h.channel, processBlock_submit]
      exact ⟨(h.putCop _).emit _, rfl⟩

theorem drainedAll {x y : State × List OutBlock} (h : Submitted m c x.1 y.1) (ho : y.2 = x.2) (ds : List Block) :
    Submitted m c (ds.foldl (drainBlock c) x).1 (ds.foldl (drainBlock c) y).1 ∧
      (ds.foldl (drainBlock c) y).2 = (ds.foldl (drainBlock c) x).2 := by
  induction ds generalizing x y with
  | nil => exact ⟨h, ho⟩
  | cons d ds ih => exact ih (h.drained ho d).1 (h.drained ho d).2

/-- Phase 2 of a drain does the same before and after a submission. -/
theorem finished (h : Submitted m c s a) : Submitted m c (finishDrain s c) (finishDrain a c) := by
  have hds : (a.cop.at c).inflight = (s.cop.at c).inflight := by
    rw [h.channel]
    rfl
  obtain ⟨hr, hout⟩ := drainedAll (x := (s, [])) (y := (a, [])) h rfl ((s.cop.at c).inflight.getD [])
  unfold finishDrain
  dsimp only
  rw [hds, hout, hr.channel]
  exact (hr.putCop _).respond .ok _ _

/-- What a submission makes of a state is one state, up to order. -/
theorem perm_eq {b : State} (ha : Submitted m c s a) (hb : Submitted m c s b) :
    a.rsp.Perm b.rsp ∧ a.notif.Perm b.notif ∧ { a with rsp := b.rsp, notif := b.notif } = b := by
  refine ⟨ha.rsp.trans hb.rsp.symm, ha.notif.trans hb.notif.symm, ?_⟩
  rw [ha.state]
  exact hb.state.symm

end Submitted

/-! A submission before and after phase 2. -/

/-- What a drained block leaves of its channel: what a submission reads of it, and whether it is opened. -/
theorem drainBlock_channel (c : Inst) (x : State × List OutBlock) (d b : Block) :
    ((drainBlock c x d).1.cop.at c).submission b = (x.1.cop.at c).submission b ∧
      ((drainBlock c x d).1.cop.at c).opened = (x.1.cop.at c).opened := by
  obtain ⟨s, out⟩ := x
  obtain ⟨-, e⟩ | ⟨-, e⟩ := drainBlock_cases c s out d
  · simp [e, Cop.submission]
  · rw [e, processBlock_frame]
    simp [Cop.submission]

theorem drainBlocks_channel (c : Inst) (x : State × List OutBlock) (ds : List Block) (b : Block) :
    ((ds.foldl (drainBlock c) x).1.cop.at c).submission b = (x.1.cop.at c).submission b ∧
      ((ds.foldl (drainBlock c) x).1.cop.at c).opened = (x.1.cop.at c).opened := by
  induction ds generalizing x with
  | nil => exact ⟨rfl, rfl⟩
  | cons d ds ih =>
    obtain ⟨hs, ho⟩ := drainBlock_channel c x d b
    exact ⟨(ih _).1.trans hs, (ih _).2.trans ho⟩

theorem finishDrain_channel (s : State) (c : Inst) (b : Block) :
    ((finishDrain s c).cop.at c).submission b = (s.cop.at c).submission b ∧
      ((finishDrain s c).cop.at c).opened = (s.cop.at c).opened := by
  have h := drainBlocks_channel c (s, []) ((s.cop.at c).inflight.getD []) b
  unfold finishDrain
  simpa [Cop.submission] using h

/-- A legal submission (R303). -/
theorem exec_copSubmit_legal {s : State} {c : Inst} {lo hi : Word} {x : List Cplx} (hc : c.toNat < s.params.nCop)
    (ho : (s.cop.at c).opened = true) (hx : x.length ≤ s.params.maxBlock) :
    exec (.copSubmit c lo hi x) s = .next (copSubmitStep s c ⟨stampOf lo hi, x⟩) := by
  refine command_ok ?_
  rw [firstError_instCheck, if_pos ((hasInst_iff s .cop c).mpr hc)]
  simp [ho, hx]

/-- Settles O59: phase 2 after a submission is a submission after phase 2, since phase 2 does the same before and after
one (`Submitted.finished`) and leaves what it reads. -/
theorem submitCommutesWithProcessing : Obligations.SubmitCommutesWithProcessing := by
  intro s a b c lo hi x hc ho hx ha hb
  have hp : (finishDrain s c).params = s.params := (finishDrain_goesOn s c).params
  obtain ⟨hsub, hopen⟩ := finishDrain_channel s c ⟨stampOf lo hi, x⟩
  rw [exec_copSubmit_legal hc ho hx] at ha
  rw [exec_copSubmit_legal (hp ▸ hc) (hopen.trans ho) (hp ▸ hx)] at hb
  obtain rfl := Host.Outcome.next.inj ha
  obtain rfl := Host.Outcome.next.inj hb
  have after := copSubmitStep_submitted (finishDrain s c) c ⟨stampOf lo hi, x⟩
  rw [hsub] at after
  exact (copSubmitStep_submitted s c ⟨stampOf lo hi, x⟩).finished.perm_eq after

end Sys2Proof.Machine
end

section
/-! SUPPORT. `DBI.OPEN` (R353 to R355): the bytes of its payload and the fields of its flags as numbers, and its checks
in two groups, those of the operands and those of the partner units. -/

namespace Sys2Proof.Machine

/-! The payload's bytes (R73). -/

/-- Byte `k` of the raw payload words. -/
def rawByte (ws : List Word) (k : Nat) : Byte := (ws.getD (k / 4) 0).extractLsb' (8 * (k % 4)) 8

theorem rawBytes_eq_map (ws : List Word) : rawBytes ws = (List.range (4 * ws.length)).map (rawByte ws) := by
  induction ws with
  | nil => rfl
  | cons w ws ih =>
    have hfirst : (List.range 4).map (rawByte (w :: ws)) = bytesOfWord w := rfl
    have hrest (k : Nat) : rawByte (w :: ws) (4 + k) = rawByte ws k := by
      rw [rawByte, rawByte, Nat.add_div_left k (by decide), Nat.add_mod_left, List.getD_cons_succ]
    rw [List.length_cons, Nat.mul_succ, Nat.add_comm, List.range_add, List.map_append, hfirst, List.map_map,
      rawBytes, List.flatMap_cons, ← rawBytes, ih]
    exact congrArg _ (List.map_congr_left fun k _ => (hrest k).symm)

/-- The bytes past `RAWLEN` in the last payload word are zero (R353). -/
def TailZero (rawlen : BitVec 22) (raw : List Word) : Prop :=
  ∀ k, rawlen.toNat ≤ k → k < 4 * raw.length → rawByte raw k = 0#8

theorem drop_rawBytes_any (rawlen : BitVec 22) (raw : List Word) :
    ((rawBytes raw).drop rawlen.toNat).any (fun b => b ≠ 0#8) = false ↔ TailZero rawlen raw := by
  rw [List.any_eq_false, rawBytes_eq_map, TailZero]
  simp only [List.mem_drop_iff_getElem, List.getElem_map, List.getElem_range, List.length_map, List.length_range,
    decide_eq_true_eq, not_not]
  constructor
  · intro h k hk hlt
    exact h _ ⟨k - rawlen.toNat, by omega, by rw [Nat.add_sub_cancel' hk]⟩
  · rintro h b ⟨k, hk, rfl⟩
    exact h _ (by omega) (by omega)

/-! Flags and timestamps as numbers. -/

theorem flagsLenI_eq (flags : Word) : flagsLenI flags = flags.toNat / 2 ^ 8 % 2 ^ 8 := by
  rw [flagsLenI, BitVec.extractLsb'_toNat, Nat.shiftRight_eq_div_pow]

theorem flagsLenQ_eq (flags : Word) : flagsLenQ flags = flags.toNat / 2 ^ 16 % 2 ^ 8 := by
  rw [flagsLenQ, BitVec.extractLsb'_toNat, Nat.shiftRight_eq_div_pow]

theorem flagsReservedZero_iff (flags : Word) :
    flagsReservedZero flags = true ↔ flags.toNat / 8 % 32 = 0 ∧ flags.toNat / 2 ^ 24 = 0 := by
  have hlt := flags.isLt
  simp only [flagsReservedZero, Bool.and_eq_true, decide_eq_true_eq, ← BitVec.toNat_inj, BitVec.extractLsb'_toNat,
    Nat.shiftRight_eq_div_pow, BitVec.toNat_ofNat]
  omega

theorem stampOf_eq (lo hi : Word) : stampOf lo hi = BitVec.ofNat 64 (hi.toNat * 2 ^ 32 + lo.toNat) := by
  have hlo : lo.toNat < 2 ^ 32 := lo.isLt
  have hhi : hi.toNat < 2 ^ 32 := hi.isLt
  apply BitVec.eq_of_toNat_eq
  rw [stampOf, BitVec.toNat_append, ← Nat.shiftLeft_add_eq_or_of_lt hlo, Nat.shiftLeft_eq, BitVec.toNat_ofNat]
  omega

/-! Checks. -/

theorem firstError_append (cs ds : List (Bool × Status)) :
    firstError (cs ++ ds) = (firstError cs).or (firstError ds) := by
  induction cs with
  | nil => rfl
  | cons c cs ih =>
    obtain ⟨bad, e⟩ := c
    cases bad
    · exact ih
    · rfl

/-- The checks of `DBI.OPEN` on its operands: all but those for constructed partners. -/
def dbiArgChecks (s : State) (i : Inst) (rawlen : BitVec 22) (flags : Word) (ri rq : List F32) (raw : List Word) :
    List (Bool × Status) :=
  (!dbiCountOk rawlen flags ri rq raw, .invalidArgument) :: instCheck s .dbi i ::
    (dbiOpenChecks s i rawlen flags raw).take 7

/-- The checks of `DBI.OPEN` for constructed partners (R354). -/
def dbiPartnerChecks (s : State) (i : Inst) (flags : Word) : List (Bool × Status) :=
  [(flagsMode flags && !(s.hil.at i).constructed, .notConstructed),
   (flagsDcen flags && !(s.dcr.at i).constructed, .notConstructed)]

/-- Operands that `DBI.OPEN` refuses whatever its payload holds (R353). -/
def DbiBadArgument (s : State) (i : Inst) (rawlen : BitVec 22) (flags : Word) : Prop :=
  s.params.nDbi ≤ i.toNat ∨ flags.toNat / 8 % 32 ≠ 0 ∨ flags.toNat / 2 ^ 24 ≠ 0 ∨
  (flags.getLsbD 1 = true ∧ s.params.sampleBits ≠ 12) ∨ (flags.getLsbD 0 = false ∧ flags.getLsbD 2 = true) ∨
  (flags.toNat / 2 ^ 8 % 2 ^ 8, flags.toNat / 2 ^ 16 % 2 ^ 8) ≠ (if flags.getLsbD 0 then (11, 23) else (0, 0)) ∨
  s.params.maxRaw < rawlen.toNat ∨ rawlen.toNat % (s.params.fragSize * if flags.getLsbD 1 then 3 else 4) ≠ 0 ∨
  (flags.getLsbD 0 = true ∧ s.params.nHil ≤ i.toNat) ∨
  (flags.getLsbD 0 = true ∧ flags.getLsbD 2 = true ∧ s.params.nDcr ≤ i.toNat)

section
variable {s : State} {i : Inst} {rawlen : BitVec 22} {flags lo hi : Word} {ri rq : List F32} {raw : List Word}

/-- The operand checks pass exactly on a packet of the right word count, good operands and a zero tail. -/
theorem dbiArgChecks_pass :
    firstError (dbiArgChecks s i rawlen flags ri rq raw) = none ↔
      dbiCountOk rawlen flags ri rq raw = true ∧ ¬DbiBadArgument s i rawlen flags ∧ TailZero rawlen raw := by
  rw [firstError_none_iff, DbiBadArgument]
  simp only [dbiArgChecks, dbiOpenChecks, List.take, List.forall_mem_cons, instCheck_fst, Bool.not_eq_false',
    drop_rawBytes_any, hasInst_iff, flagsReservedZero_iff, decide_eq_false_iff_not, Bool.and_eq_false_imp,
    Bool.or_eq_false_iff, Bool.not_eq_true', not_or, not_and, not_not, Nat.not_le, Nat.not_lt, Bool.not_eq_true]
  simp only [flagsMode, flagsPacked, flagsDcen, flagsLenI_eq, flagsLenQ_eq, wantResid, pairStride, Params.nInst]
  constructor
  · rintro ⟨hcount, hi, ⟨hlow, hhigh⟩, hpacked, hdcen, hresid, ⟨hmax, hmod⟩, htail, hpartners, -⟩
    exact ⟨hcount, ⟨hi, hlow, hhigh, hpacked, hdcen, hresid, hmax, hmod, fun h => (hpartners h).1,
      fun h => (hpartners h).2⟩, htail⟩
  · rintro ⟨hcount, ⟨hi, hlow, hhigh, hpacked, hdcen, hresid, hmax, hmod, hhil, hdcr⟩, htail⟩
    exact ⟨hcount, hi, ⟨hlow, hhigh⟩, hpacked, hdcen, hresid, ⟨hmax, hmod⟩, htail, fun h => ⟨hhil h, hdcr h⟩, by simp⟩

/-- A failing operand check raises an argument error. -/
theorem dbiArgChecks_fail (h : firstError (dbiArgChecks s i rawlen flags ri rq raw) ≠ none) :
    firstError (dbiArgChecks s i rawlen flags ri rq raw) = some .invalidArgument := by
  obtain ⟨e, he⟩ := Option.ne_none_iff_exists'.mp h
  obtain ⟨c, hc, -, rfl⟩ := firstError_some he
  have hall : ∀ c ∈ dbiArgChecks s i rawlen flags ri rq raw, c.2 = .invalidArgument := by
    simp [dbiArgChecks, dbiOpenChecks]
  rw [he, hall c hc]

/-- `DBI.OPEN` by its two groups of checks. -/
theorem exec_dbiOpen : exec (.dbiOpen i rawlen flags lo hi ri rq raw) s =
    s.command ⟨10, 0, i⟩ (dbiArgChecks s i rawlen flags ri rq raw ++ dbiPartnerChecks s i flags)
      ((s.putDbi i (dbiOpened s.params rawlen flags lo hi ri rq raw)).answer 0 []) := rfl

theorem exec_dbiOpen_badArgument (h : ¬(dbiCountOk rawlen flags ri rq raw = true ∧ ¬DbiBadArgument s i rawlen flags ∧
    TailZero rawlen raw)) :
    exec (.dbiOpen i rawlen flags lo hi ri rq raw) s = .next (s.raise .invalidArgument ⟨10, 0, i⟩) := by
  rw [exec_dbiOpen]
  refine command_error ?_
  rw [firstError_append, dbiArgChecks_fail (mt dbiArgChecks_pass.mp h)]
  rfl

/-- With good operands the partners decide. -/
theorem exec_dbiOpen_goodArgument (hcount : dbiCountOk rawlen flags ri rq raw = true)
    (hgood : ¬DbiBadArgument s i rawlen flags) (htail : TailZero rawlen raw) :
    exec (.dbiOpen i rawlen flags lo hi ri rq raw) s =
      if (flags.getLsbD 0 = true ∧ (s.hil.at i).constructed = false) ∨
          (flags.getLsbD 2 = true ∧ (s.dcr.at i).constructed = false) then
        .next (s.raise .notConstructed ⟨10, 0, i⟩)
      else .next ((s.putDbi i (dbiOpened s.params rawlen flags lo hi ri rq raw)).answer 0 []) := by
  have herr : firstError (dbiArgChecks s i rawlen flags ri rq raw ++ dbiPartnerChecks s i flags) =
      if (flags.getLsbD 0 = true ∧ (s.hil.at i).constructed = false) ∨
          (flags.getLsbD 2 = true ∧ (s.dcr.at i).constructed = false) then some .notConstructed else none := by
    rw [firstError_append, dbiArgChecks_pass.mpr ⟨hcount, hgood, htail⟩, Option.none_or]
    simp only [dbiPartnerChecks, firstError_cons, firstError_nil, flagsMode, flagsDcen, Bool.and_eq_true,
      Bool.not_eq_true', ite_or]
  rw [exec_dbiOpen]
  split
  next h => exact command_error (herr.trans (if_pos h))
  next h => exact command_ok (herr.trans (if_neg h))

/-- The word counts that the decoder lets through (R107). -/
theorem dbiCountOk_iff : dbiCountOk rawlen flags ri rq raw = true ↔
    ri.length = flags.toNat / 2 ^ 8 % 2 ^ 8 ∧ rq.length = flags.toNat / 2 ^ 16 % 2 ^ 8 ∧
      raw.length = (rawlen.toNat + 3) / 4 := by
  rw [← flagsLenI_eq, ← flagsLenQ_eq, ← rawWords]
  simp only [dbiCountOk, Bool.and_eq_true, decide_eq_true_eq, and_assoc]

/-- The bytes of a payload of the right length (R73). -/
theorem take_rawBytes (h : raw.length = (rawlen.toNat + 3) / 4) :
    (rawBytes raw).take rawlen.toNat = (List.range rawlen.toNat).map (rawByte raw) := by
  rw [rawBytes_eq_map, ← List.map_take, List.take_range, min_eq_left (by omega)]

end

/-- Settles O45, by the two groups of checks: the operands', which raise an argument error, and the partners'. -/
theorem iteratorOpensOrRefuses : Obligations.IteratorOpensOrRefuses := by
  constructor
  · intro s i rawlen flags lo hi ri rq raw hi' hlow hhigh hpacked hdcen hri hrq hresid hmax hmod hraw htail hhil hdcr
    have hgood : ¬DbiBadArgument s i rawlen flags := by
      rw [DbiBadArgument, ← hri, ← hrq]
      simp only [not_or, not_and, not_not, Nat.not_le, Nat.not_lt]
      refine ⟨hi', hlow, hhigh, hpacked, fun h0 h2 => ?_, hresid, hmax, hmod, fun h0 => (hhil h0).1,
        fun _ h2 => (hdcr h2).1⟩
      exact Bool.false_ne_true (h0.symm.trans (hdcen h2))
    have hpartners : ¬((flags.getLsbD 0 = true ∧ (s.hil.at i).constructed = false) ∨
        (flags.getLsbD 2 = true ∧ (s.dcr.at i).constructed = false)) := by
      rintro (⟨h0, hc⟩ | ⟨h2, hc⟩)
      · simp [(hhil h0).2] at hc
      · simp [(hdcr h2).2] at hc
    rw [exec_dbiOpen_goodArgument (dbiCountOk_iff.mpr ⟨hri, hrq, hraw⟩) hgood htail, if_neg hpartners,
      dbiOpened, take_rawBytes hraw, stampOf_eq]
    rfl
  · intro s i rawlen flags lo hi ri rq raw stride badArgument
    refine ⟨fun hbad => exec_dbiOpen_badArgument fun ⟨_, hgood, _⟩ => hgood hbad, fun hwf hgood => ⟨?_, ?_⟩⟩
    · rintro ⟨k, hk, hlt, hb⟩
      exact exec_dbiOpen_badArgument fun ⟨_, _, htail⟩ => hb (htail k hk hlt)
    · intro htail hp
      exact (exec_dbiOpen_goodArgument hwf hgood htail).trans (if_pos hp)

end Sys2Proof.Machine
end

section
/-! SUPPORT. Decoding and encoding (R100 to R107): the fields and the words of a packet as equations, the forms that the
packets of the 38 commands take, and from them that the decoder and the encoder are inverse to each other. -/

namespace Sys2Proof

/-! Headers, field by field. -/

theorem mkHeader_eq_iff {op : BitVec 6} {i : Inst} {imm : BitVec 22} {h : Word} :
    mkHeader op i imm = h ↔ opcodeOf h = op ∧ instOf h = i ∧ immOf h = imm := by
  constructor
  · rintro rfl
    simp
  · rintro ⟨rfl, rfl, rfl⟩
    exact mkHeader_fields h

theorem header_zero_iff {h : Word} : h = 0#32 ↔ opcodeOf h = 0 ∧ instOf h = 0 ∧ immOf h = 0 := by
  rw [← mkHeader_eq_iff]
  exact eq_comm

theorem immLen_eq_iff {n : Nat} {h : Word} : n < 2 ^ 22 ∧ immOf h = immLen n ↔ (immOf h).toNat = n := by
  have hlt := (immOf h).isLt
  rw [← BitVec.toNat_inj, immLen_toNat]
  omega

theorem immTaps_eq_iff {d : BitVec 10} {l : Nat} {h : Word} :
    l < 2 ^ 12 ∧ immOf h = immTaps d l ↔ decimOf h = d ∧ (lenOf h).toNat = l := by
  have hlt := (lenOf h).isLt
  have hd := d.isLt
  have hd' := (decimOf h).isLt
  rw [← immTaps_fields h, ← BitVec.toNat_inj, ← BitVec.toNat_inj, immTaps_toNat, immTaps_toNat]
  omega

theorem immReg_eq_iff {rk : BitVec 4} {rn : BitVec 8} {h : Word} :
    immOf h = immReg rk rn ↔ decimOf h = 0#10 ∧ rkindOf h = rk ∧ regnoOf h = rn := by
  constructor
  · intro e
    have hh : h = mkHeader (opcodeOf h) (instOf h) (immReg rk rn) := by rw [← e, mkHeader_fields]
    rw [hh]
    simp
  · rintro ⟨hd, rfl, rfl⟩
    exact (immReg_fields h hd).symm

/-! Words, part by part. -/

theorem eq_interleave_iff {α : Type} {x : List (α × α)} {b : List α} :
    b = interleave x ↔ b.length = 2 * x.length ∧ pairs b = x := by
  constructor
  · rintro rfl
    simp
  · rintro ⟨hb, rfl⟩
    exact (interleave_pairs b (by omega)).symm

theorem eq_cons_iff {b t : List Word} {v : Word} : b = v :: t ↔ 1 ≤ b.length ∧ b.getD 0 0 = v ∧ b.drop 1 = t := by
  cases b <;> simp

theorem eq_cons_cons_iff {b t : List Word} {v w : Word} :
    b = v :: w :: t ↔ 2 ≤ b.length ∧ b.getD 0 0 = v ∧ b.getD 1 0 = w ∧ b.drop 2 = t := by
  cases b with
  | nil => simp
  | cons a as =>
    simp only [List.cons.injEq, eq_cons_iff (b := as), List.length_cons, List.getD_cons_zero, List.getD_cons_succ,
      List.drop_succ_cons, Nat.succ_le_succ_iff]
    tauto

/-- Operand words in front of a payload (R105). -/
theorem eq_threeWords_iff {b t : List Word} {u v w : Word} :
    b = u :: v :: w :: t ↔
      3 ≤ b.length ∧ b.getD 0 0 = u ∧ b.getD 1 0 = v ∧ b.getD 2 0 = w ∧ b.drop 3 = t := by
  cases b with
  | nil => simp
  | cons a as =>
    simp only [List.cons.injEq, eq_cons_cons_iff (b := as), List.length_cons, List.getD_cons_zero,
      List.getD_cons_succ, List.drop_succ_cons, Nat.succ_le_succ_iff]
    tauto

/-- A payload of three parts, cut by the lengths of the first two (R107). -/
theorem eq_threeParts_iff {α : Type} {b x y z : List α} {m n : Nat} :
    x.length = m ∧ y.length = n ∧ b = x ++ y ++ z ↔
      m + n ≤ b.length ∧ b.take m = x ∧ (b.drop m).take n = y ∧ b.drop (m + n) = z := by
  constructor
  · rintro ⟨rfl, rfl, rfl⟩
    simp
  · rintro ⟨hb, rfl, rfl, rfl⟩
    refine ⟨List.length_take_of_le (by omega), List.length_take_of_le (by simp; omega), ?_⟩
    rw [← List.drop_drop, List.append_assoc, List.take_append_drop, List.take_append_drop]

/-! The forms of packets (R104, R105, R107): what the decoder asks of a header `h` and the words `b` after it, on the
left, is that they are what the encoder makes of the command, on the right. -/

section
variable {h : Word} {b : List Word} {i : Inst}

theorem noOperand_form : immOf h = 0 ∧ b.length = 0 ∧ instOf h = i ↔ (instOf h = i ∧ immOf h = 0) ∧ [] = b := by
  rw [List.length_eq_zero_iff, eq_comm (a := b)]
  tauto

theorem oneWord_form {v : Word} :
    immOf h = 0 ∧ b.length = 1 ∧ instOf h = i ∧ b.getD 0 0 = v ↔ (instOf h = i ∧ immOf h = 0) ∧ [v] = b := by
  rw [eq_comm (b := b), eq_cons_iff, List.drop_eq_nil_iff]
  grind

theorem threeWords_form {u v w : Word} :
    immOf h = 0 ∧ b.length = 3 ∧ instOf h = i ∧ b.getD 0 0 = u ∧ b.getD 1 0 = v ∧ b.getD 2 0 = w ↔
      (instOf h = i ∧ immOf h = 0) ∧ [u, v, w] = b := by
  rw [eq_comm (b := b), eq_threeWords_iff, List.drop_eq_nil_iff]
  grind

theorem immOperand_form {n : BitVec 22} :
    b.length = 0 ∧ instOf h = i ∧ immOf h = n ↔ (instOf h = i ∧ immOf h = n) ∧ [] = b := by
  rw [List.length_eq_zero_iff, eq_comm (a := b)]
  tauto

theorem registerRead_form {rk : BitVec 4} {rn : BitVec 8} :
    decimOf h = 0 ∧ b.length = 0 ∧ instOf h = i ∧ rkindOf h = rk ∧ regnoOf h = rn ↔
      (instOf h = i ∧ immOf h = immReg rk rn) ∧ [] = b := by
  rw [immReg_eq_iff, List.length_eq_zero_iff, eq_comm (a := b)]
  tauto

theorem registerWrite_form {rk : BitVec 4} {rn : BitVec 8} {v : Word} :
    decimOf h = 0 ∧ b.length = 1 ∧ instOf h = i ∧ rkindOf h = rk ∧ regnoOf h = rn ∧ b.getD 0 0 = v ↔
      (instOf h = i ∧ immOf h = immReg rk rn) ∧ [v] = b := by
  rw [immReg_eq_iff, eq_comm (b := b), eq_cons_iff, List.drop_eq_nil_iff]
  grind

theorem taps_form {d : BitVec 10} {c : List F32} :
    b.length = (lenOf h).toNat ∧ instOf h = i ∧ decimOf h = d ∧ b = c ↔
      fitsL c ∧ (instOf h = i ∧ immOf h = immTaps d c.length) ∧ c = b := by
  have himm := immTaps_eq_iff (d := d) (l := c.length) (h := h)
  grind

theorem shortTaps_form {c : List F32} :
    decimOf h = 0 ∧ b.length = (lenOf h).toNat ∧ instOf h = i ∧ b = c ↔
      fitsL c ∧ (instOf h = i ∧ immOf h = immTaps 0 c.length) ∧ c = b := by
  rw [← taps_form]
  tauto

theorem block_form {x : List F32} :
    b.length = (immOf h).toNat ∧ instOf h = i ∧ b = x ↔
      fitsN x ∧ (instOf h = i ∧ immOf h = immLen x.length) ∧ x = b := by
  have himm := immLen_eq_iff (n := x.length) (h := h)
  grind

theorem complexBlock_form {x : List Cplx} :
    b.length = 2 * (immOf h).toNat ∧ instOf h = i ∧ pairs b = x ↔
      fitsN x ∧ (instOf h = i ∧ immOf h = immLen x.length) ∧ interleave x = b := by
  have himm := immLen_eq_iff (n := x.length) (h := h)
  have hb := eq_interleave_iff (x := x) (b := b)
  have hlen := length_pairs b
  grind

theorem submission_form {lo hi : Word} {x : List Cplx} :
    b.length = 2 + 2 * (immOf h).toNat ∧ instOf h = i ∧ b.getD 0 0 = lo ∧ b.getD 1 0 = hi ∧ pairs (b.drop 2) = x ↔
      fitsN x ∧ (instOf h = i ∧ immOf h = immLen x.length) ∧ lo :: hi :: interleave x = b := by
  have hblock := complexBlock_form (b := b.drop 2) (h := h) (i := i) (x := x)
  rw [eq_comm (b := b), eq_cons_cons_iff]
  grind

theorem opening_form {rawlen : BitVec 22} {flags lo hi : Word} {ri rq raw : List Word} :
    b.length = 3 + flagsLenI (b.getD 0 0) + flagsLenQ (b.getD 0 0) + rawWords (immOf h).toNat ∧ instOf h = i ∧
        immOf h = rawlen ∧ b.getD 0 0 = flags ∧ b.getD 1 0 = lo ∧ b.getD 2 0 = hi ∧
        (b.drop 3).take (flagsLenI (b.getD 0 0)) = ri ∧
        ((b.drop 3).drop (flagsLenI (b.getD 0 0))).take (flagsLenQ (b.getD 0 0)) = rq ∧
        (b.drop 3).drop (flagsLenI (b.getD 0 0) + flagsLenQ (b.getD 0 0)) = raw ↔
      ((ri.length = flagsLenI flags ∧ rq.length = flagsLenQ flags) ∧ raw.length = rawWords rawlen.toNat) ∧
        (instOf h = i ∧ immOf h = rawlen) ∧ flags :: lo :: hi :: (ri ++ rq ++ raw) = b := by
  have hparts := eq_threeParts_iff (b := b.drop 3) (x := ri) (y := rq) (z := raw) (m := flagsLenI flags)
    (n := flagsLenQ flags)
  rw [eq_comm (b := b), eq_threeWords_iff]
  grind

end

/-! The decoder and the encoder. -/

/-- A packet that decodes has the opcode of its command. -/
theorem opcodeOf_encode_of_decode {p : Packet} {i : Instr} (h : decode p = .ok i) :
    opcodeOf (encode i).header = opcodeOf p.header := by
  unfold decode at h
  dsimp only at h
  split at h
  case h_39 => cases h
  all_goals
    next ho =>
      obtain ⟨-, -, rfl⟩ := sized_ok.mp h
      rw [encode, opcodeOf_mkHeader]
      exact BitVec.eq_of_toNat_eq ho.symm

/-- A packet of a command's opcode decodes to it exactly when it has the form of the command's packet. -/
theorem decode_eq_ok_iff_of_opcode {p : Packet} {i : Instr} (ho : opcodeOf (encode i).header = opcodeOf p.header) :
    decode p = .ok i ↔ i.WellFormed = true ∧ encode i = p := by
  obtain ⟨h, b⟩ := p
  cases i
  all_goals
    rw [encode, opcodeOf_mkHeader] at ho
    simp only [decode, encode, ← ho, sized_ok, Packet.mk.injEq, mkHeader_eq_iff, Instr.WellFormed,
      BitVec.ofNat_eq_ofNat, BitVec.reduceToNat]
  case sysNop => simp [header_zero_iff, ← ho]
  case sysReset => simp
  case firrClr | fircClr | hbrClr | hbcClr | hilClr | dcrClr | ncoClr | mixLoad | fmdLoad | fmdClr | dbiNext | dbiClr
      | dbiResid | copDetach => simpa using noOperand_form
  case dcrLoad | ncoLoad => simpa using oneWord_form
  case copOpen => simpa using threeWords_form
  case ncoGen | copDrain => simpa using immOperand_form
  case sysRdreg => simpa using registerRead_form
  case sysWrreg => simpa using registerWrite_form
  case firrLoad | fircLoad => simpa using taps_form
  case hbrLoad | hbcLoad | hilLoad => simpa using shortTaps_form
  case firrProc | hbrProc | dcrProc => simpa using block_form
  case fircProc | hbcProc | hilProc | mixProc | fmdProc => simpa using complexBlock_form
  case copSubmit => simpa using submission_form
  case dbiOpen => simpa using opening_form

/-- The decoder and the encoder are inverse to each other on the packets that decode and the well-formed commands. -/
theorem decode_eq_ok_iff {p : Packet} {i : Instr} : decode p = .ok i ↔ i.WellFormed = true ∧ encode i = p := by
  by_cases ho : opcodeOf (encode i).header = opcodeOf p.header
  · exact decode_eq_ok_iff_of_opcode ho
  · refine iff_of_false (fun h => ho (opcodeOf_encode_of_decode h)) ?_
    rintro ⟨-, rfl⟩
    exact ho rfl

/-- Settles O2: the packet of a command has the command's form. -/
theorem decodeEncode : Obligations.DecodeEncode := fun _ hwf => decode_eq_ok_iff.mpr ⟨hwf, rfl⟩

/-- Settles O3: a packet that decodes has the form of its command. -/
theorem encodeDecode : Obligations.EncodeDecode := fun _ _ => decode_eq_ok_iff.mp

/-- Settles O1: each packet is the encoding of its command. -/
theorem specPacketsDecode : Obligations.SpecPacketsDecode := by
  simp only [Obligations.SpecPacketsDecode, decode_eq_ok_iff]
  decide

end Sys2Proof
end

section
/-! SUPPORT. The prologue (R140): every command of a unit checks its `INST`, under the identity its header gives. -/

namespace Sys2Proof.Machine

/-- The two parts of an opcode are `KIND` and `FUNC` (R101). -/
theorem headerId_mkHeader (op : BitVec 6) (i : Inst) (imm : BitVec 22) :
    headerId (mkHeader op i imm) = ⟨op.extractLsb' 2 4, op.extractLsb' 0 2, i⟩ := by
  have hop : op.extractLsb' 2 4 ++ op.extractLsb' 0 2 = op :=
    (BitVec.extractLsb'_append_extractLsb'_eq_extractLsb' rfl).trans BitVec.extractLsb'_eq_self
  obtain ⟨hk, hf⟩ := header_of_opcode ((opcodeOf_mkHeader op i imm).trans hop.symm)
  rw [headerId, hk, hf, instOf_mkHeader]

/-- A command to an absent unit is an argument error (R109). -/
theorem command_of_absent {s t : State} {id : CmdId} {k : Kind} {i : Inst} {cs : List (Bool × Status)}
    (h : s.params.nInst k ≤ i.toNat) :
    s.command id (instCheck s k i :: cs) t = .next (s.raise .invalidArgument id) := by
  refine command_error ?_
  rw [firstError_instCheck, if_neg]
  simpa [hasInst_iff] using h

/-- The command's packet is of kind `k`, and an `INST` past the end of a unit kind is an argument error. -/
def AbsentRaises (i : Instr) (s : State) (k : Kind) : Prop :=
  kindOf (encode i).header = k.code ∧ (k ≠ .sys → s.params.nInst k ≤ (instOf (encode i).header).toNat →
    exec i s = .next (s.raise .invalidArgument (headerId (encode i).header)))

/-- A command that checks its `INST` first. -/
theorem AbsentRaises.command {i : Instr} {s t : State} {k : Kind} {f : BitVec 2} {j : Inst} {cs : List (Bool × Status)}
    (hid : headerId (encode i).header = ⟨k.code, f, j⟩)
    (he : exec i s = s.command ⟨k.code, f, j⟩ (instCheck s k j :: cs) t) : AbsentRaises i s k := by
  obtain ⟨hk, -, hj⟩ := CmdId.mk.inj hid
  refine ⟨hk, fun _ h => ?_⟩
  rw [he, hid]
  exact command_of_absent (hj ▸ h)

/-- Every command of a unit raises where its `INST` names none (R140); `DBI.OPEN` counts its words before. -/
theorem exec_absentRaises (i : Instr) (s : State) : ∃ k, AbsentRaises i s k := by
  cases i
  case sysNop | sysRdreg | sysWrreg | sysReset =>
    exact ⟨.sys, congrArg CmdId.kind (headerId_mkHeader ..), fun h => absurd rfl h⟩
  case firrLoad | firrProc | firrClr => exact ⟨.firr, .command (headerId_mkHeader ..) rfl⟩
  case fircLoad | fircProc | fircClr => exact ⟨.firc, .command (headerId_mkHeader ..) rfl⟩
  case hbrLoad | hbrProc | hbrClr => exact ⟨.hbr, .command (headerId_mkHeader ..) rfl⟩
  case hbcLoad | hbcProc | hbcClr => exact ⟨.hbc, .command (headerId_mkHeader ..) rfl⟩
  case hilLoad | hilProc | hilClr => exact ⟨.hil, .command (headerId_mkHeader ..) rfl⟩
  case dcrLoad | dcrProc | dcrClr => exact ⟨.dcr, .command (headerId_mkHeader ..) rfl⟩
  case ncoLoad | ncoGen | ncoClr => exact ⟨.nco, .command (headerId_mkHeader ..) rfl⟩
  case mixLoad | mixProc => exact ⟨.mix, .command (headerId_mkHeader ..) rfl⟩
  case fmdLoad | fmdProc | fmdClr => exact ⟨.fmd, .command (headerId_mkHeader ..) rfl⟩
  case dbiNext | dbiClr | dbiResid => exact ⟨.dbi, .command (headerId_mkHeader ..) rfl⟩
  case copOpen | copSubmit | copDrain | copDetach => exact ⟨.cop, .command (headerId_mkHeader ..) rfl⟩
  case dbiOpen i rawlen flags lo hi ri rq raw =>
    have hid : headerId (mkHeader 40 i rawlen) = ⟨10, 0, i⟩ := headerId_mkHeader ..
    refine ⟨.dbi, congrArg CmdId.kind hid, fun _ h => ?_⟩
    rw [encode, instOf_mkHeader] at h
    rw [encode, hid]
    exact exec_dbiOpen_badArgument fun ⟨_, hgood, _⟩ => hgood (.inl h)

/-- Settles O17: the header's kind is that of the unit whose `INST` the command checks. -/
theorem instanceOutOfRangeRaises : Obligations.InstanceOutOfRangeRaises := by
  intro i s k j hk _ hkind hj hn
  obtain ⟨k', hkind', hraises⟩ := exec_absentRaises i s
  obtain rfl := Kind.code_injective (hkind.symm.trans hkind')
  exact hraises hk (hj ▸ hn)

end Sys2Proof.Machine
end

section
/-! SUPPORT. Construction of the filters (R160, R161, R195, R225): what the checks of a `LOAD` ask of its operands, and
the effect of a `LOAD` that passes them. -/

namespace Sys2Proof.Machine

/-- A command of a present unit whose other checks pass has its effect (R140). -/
theorem command_of_present {s t : State} {id : CmdId} {k : Kind} {i : Inst} {cs : List (Bool × Status)}
    (hi : i.toNat < s.params.nInst k) (h : firstError cs = none) :
    s.command id (instCheck s k i :: cs) t = .next t :=
  command_ok (firstError_instCheck_none.mpr ⟨(hasInst_iff s k i).mpr hi, h⟩)

/-- The latched variant, with the test as R147 writes it. -/
theorem latch_eq (s : State) (k : Fin 9) :
    s.latch k = if s.sys.variant[k] = .uncalibrated then .scalar else s.sys.variant[k] := by
  rw [State.latch, State.variantOf]
  cases s.sys.variant[k] <;> rfl

/-- The zeros are the two bit patterns without magnitude bits (R11). -/
theorem isZero_iff_eq (a : F32) : isZero a = true ↔ a = 0x00000000#32 ∨ a = 0x80000000#32 := by
  rw [isZero_iff]
  bv_omega

/-- The half-band check is the precondition of R194, conjunct by conjunct. -/
theorem hbOk_iff (c : List F32) : hbOk c = true ↔ HalfBandShape c := by
  rw [hbOk, Bool.and_eq_true, Bool.and_eq_true, and_assoc]
  refine and_congr decide_eq_true_iff (and_congr ?_ ?_)
  · simp [isZero_iff_eq, or_iff_not_imp_left]
  · simp [or_iff_not_imp_left]

/-- The legal operands of a generic FIR `LOAD` (R160, R161). -/
theorem firLoadChecks_pass {s : State} {c : List F32} {d : BitVec 10} :
    firstError (firLoadChecks s c d) = none ↔ c.length % 2 = 1 ∧ c.length ≤ s.params.maxTaps ∧ d ≠ 0#10 := by
  have length_legal : ¬(c.length = 0 ∨ c.length % 2 = 0 ∨ s.params.maxTaps < c.length) ↔
      c.length % 2 = 1 ∧ c.length ≤ s.params.maxTaps := by omega
  rw [firLoadChecks, firstError_none_iff, List.forall_mem_cons, List.forall_mem_singleton, decide_eq_false_iff_not,
    decide_eq_false_iff_not, length_legal, and_assoc]

/-- The legal operands of a half-band `LOAD` (R192, R194). -/
theorem hbLoadChecks_pass {s : State} {c : List F32} :
    firstError (hbLoadChecks s c) = none ↔
      (3 ≤ c.length ∧ c.length ≤ s.params.maxTaps ∧ c.length % 4 = 3) ∧ HalfBandShape c := by
  rw [hbLoadChecks, firstError_none_iff, ← hbOk_iff]
  simp

/-- The legal operands of `HIL.LOAD` (R222, R225). -/
theorem hilLoadChecks_pass {c : List F32} :
    firstError (hilLoadChecks c) = none ↔ c.length = 47 ∧ HalfBandShape c := by
  rw [hilLoadChecks, firstError_none_iff, ← hbOk_iff]
  simp

/-- Settles O30: legal operands are those that pass the checks, and the checks are all that keeps a `LOAD` from its
effect. -/
theorem filterLoadConstructs : Obligations.FilterLoadConstructs := by
  refine ⟨latch_eq, fun s i d c hodd hmax hd => ?_, fun s i c hshape => ?_⟩
  · have legal := firLoadChecks_pass.mpr ⟨hodd, hmax, hd⟩
    exact ⟨fun hi => command_of_present hi legal, fun hi => command_of_present hi legal⟩
  · have legal (h3 : 3 ≤ c.length) (hmax : c.length ≤ s.params.maxTaps) (hmod : c.length % 4 = 3) :
        firstError (hbLoadChecks s c) = none :=
      hbLoadChecks_pass.mpr ⟨⟨h3, hmax, hmod⟩, hshape⟩
    exact ⟨fun hi h3 hmax hmod => command_of_present hi (legal h3 hmax hmod),
      fun hi h3 hmax hmod => command_of_present hi (legal h3 hmax hmod),
      fun hi h47 => command_of_present hi (hilLoadChecks_pass.mpr ⟨h47, hshape⟩)⟩

end Sys2Proof.Machine
end

section
/-! SUPPORT. The overlap-save rails (R79, R162, R196, R224) under a cut of the block: each output reads one window of the
working buffer, and the windows of a later block stand in the residual of the earlier one. -/

namespace Sys2Proof.Machine

theorem elem_append_left {v w : List F32} {j : Nat} (h : j < v.length) : elem (v ++ w) j = elem v j :=
  List.getD_append v w fzero j h

theorem elem_drop (w : List F32) (k j : Nat) : elem (w.drop k) j = elem w (k + j) := by
  simp only [elem, List.getD_eq_getElem?_getD, List.getElem?_drop]

theorem nextResid_nil {α : Type} (r : List α) : nextResid r [] = r := by simp [nextResid, workBuf]

/-- The working buffer of a second block is the tail of the joined block's. -/
theorem workBuf_nextResid {α : Type} (r x y : List α) :
    workBuf (nextResid r x) y = (workBuf r (x ++ y)).drop x.length := by
  have hle : x.length ≤ (r ++ x).length := by simp
  rw [workBuf, nextResid, workBuf, workBuf, ← List.append_assoc, List.drop_append_of_le_length hle]

/-- `f w p` reads nothing of `w` but the elements `p` to `p` + `n`. -/
def ReadsWindow (n : Nat) (f : List F32 → Nat → F32) : Prop :=
  ∀ v w p q, (∀ j ≤ n, elem v (p + j) = elem w (q + j)) → f v p = f w q

/-- A rail whose outputs are `f` at windows `d` apart over the working buffer. -/
def overlapRail (f : List F32 → Nat → F32) (d : Nat) (r x : List F32) : List F32 :=
  (List.range (x.length / d)).map fun m => f (workBuf r x) (m * d)

@[simp] theorem length_overlapRail (f : List F32 → Nat → F32) (d : Nat) (r x : List F32) :
    (overlapRail f d r x).length = x.length / d := by simp [overlapRail]

/-- A block cut where a window begins gives the outputs of its parts. -/
theorem overlapRail_append {n d : Nat} {f : List F32 → Nat → F32} (hf : ReadsWindow n f) {r x : List F32}
    (hr : r.length = n) (hd : d ∣ x.length) (y : List F32) :
    overlapRail f d r (x ++ y) = overlapRail f d r x ++ overlapRail f d (nextResid r x) y := by
  simp only [overlapRail, List.length_append, Nat.add_div_of_dvd_right hd, List.range_add, List.map_append, List.map_map]
  congr 1
  · refine List.map_congr_left fun m hm => hf _ _ _ _ fun j hj => ?_
    have hwindow : m * d + d ≤ x.length := by
      rw [← Nat.succ_mul]
      exact (Nat.mul_le_mul_right d (List.mem_range.mp hm)).trans (Nat.div_mul_le_self _ _)
    have hpos : 0 < d := Nat.pos_of_ne_zero fun h => by simp [h] at hm
    rw [workBuf, ← List.append_assoc]
    exact elem_append_left (by rw [List.length_append]; omega)
  · refine List.map_congr_left fun m _ => hf _ _ _ _ fun j _ => ?_
    rw [workBuf_nextResid, elem_drop, Nat.add_mul, Nat.div_mul_cancel hd, Nat.add_assoc]

/-! The three filters as such rails. -/

theorem firRail_eq (num : Numerics) (v : Variant) (c : List F32) (d : Nat) (r x : List F32) :
    firRail num v c d r x = overlapRail (firOut num v c 1) d r x := by
  simp [firRail, overlapRail, firOut]

theorem hbRail_eq (num : Numerics) (v : Variant) (c r x : List F32) :
    hbRail num v c r x = overlapRail (hbOut num v c) 2 r x := by
  simp [hbRail, overlapRail, Nat.mul_comm 2]

theorem hilRails_eq (num : Numerics) (v : Variant) (c ri rq : List F32) (ab : List Cplx) :
    hilRails num v c ri rq ab =
      joinRails (overlapRail (fun w m => (hilOut num v c w [] m).1) 1 ri (railI ab))
        (overlapRail (fun w m => (hilOut num v c [] w m).2) 1 rq (railQ ab)) := by
  simp [hilRails, hilOut, joinRails, overlapRail, List.zip_map']

theorem firOut_readsWindow (num : Numerics) (v : Variant) (c : List F32) :
    ReadsWindow (c.length - 1) (firOut num v c 1) := by
  intro w w' p q h
  refine congrArg (sumBy num v) (List.map_congr_left fun k hk => congrArg _ ?_)
  have hk := List.mem_range.mp hk
  rw [Nat.mul_one, Nat.mul_one, Nat.add_sub_assoc (by omega), Nat.add_sub_assoc (by omega), h _ (by omega)]

theorem hbOut_readsWindow (num : Numerics) (v : Variant) (c : List F32) :
    ReadsWindow (c.length - 1) (hbOut num v c) := by
  intro w w' p q h
  refine congrArg (sumBy num v) (congrArg₂ _ ?_ (List.map_congr_left fun j hj => congrArg _ ?_))
  · rw [h _ (by omega)]
  · have hj := List.mem_range.mp hj
    rw [Nat.add_sub_assoc (by omega), Nat.add_sub_assoc (by omega), h _ (by omega), h _ (by omega)]

theorem hilOut_fst_readsWindow (num : Numerics) (v : Variant) (c : List F32) :
    ReadsWindow 11 fun w m => (hilOut num v c w [] m).1 :=
  fun _ _ _ _ h => congrArg (fmul (elem c 23)) (h 0 (by omega))

theorem hilOut_snd_readsWindow (num : Numerics) (v : Variant) (c : List F32) :
    ReadsWindow 23 fun w m => (hilOut num v c [] w m).2 := by
  intro w w' p q h
  refine congrArg (sumBy num v) (List.map_congr_left fun j hj => congrArg _ ?_)
  have hj := List.mem_range.mp hj
  rw [Nat.add_sub_assoc (by omega), Nat.add_sub_assoc (by omega), h _ (by omega), h _ (by omega)]

/-! The filters under a cut. -/

theorem railI_append (x y : List Cplx) : railI (x ++ y) = railI x ++ railI y := List.map_append

theorem railQ_append (x y : List Cplx) : railQ (x ++ y) = railQ x ++ railQ y := List.map_append

theorem railI_nextResid (r x : List Cplx) : railI (nextResid r x) = nextResid (railI r) (railI x) := by
  simp [railI, nextResid, workBuf]

theorem railQ_nextResid (r x : List Cplx) : railQ (nextResid r x) = nextResid (railQ r) (railQ x) := by
  simp [railQ, nextResid, workBuf]

theorem joinRails_append {i q : List F32} (h : i.length = q.length) (i' q' : List F32) :
    joinRails (i ++ i') (q ++ q') = joinRails i q ++ joinRails i' q' := List.zip_append h

section
variable (num : Numerics) (v : Variant) {c : List F32}

theorem firRail_append {d : Nat} {r x : List F32} (hr : r.length = c.length - 1) (hd : d ∣ x.length) (y : List F32) :
    firRail num v c d r (x ++ y) = firRail num v c d r x ++ firRail num v c d (nextResid r x) y := by
  simp only [firRail_eq]
  exact overlapRail_append (firOut_readsWindow num v c) hr hd y

theorem firRails_append {d : Nat} {r x : List Cplx} (hr : r.length = c.length - 1) (hd : d ∣ x.length) (y : List Cplx) :
    firRails num v c d r (x ++ y) = firRails num v c d r x ++ firRails num v c d (nextResid r x) y := by
  simp only [firRails, railI_append, railQ_append, railI_nextResid, railQ_nextResid]
  rw [firRail_append num v (by simpa) (by simpa), firRail_append num v (by simpa) (by simpa), joinRails_append (by simp)]

theorem hbRail_append {r x : List F32} (hr : r.length = c.length - 1) (hd : 2 ∣ x.length) (y : List F32) :
    hbRail num v c r (x ++ y) = hbRail num v c r x ++ hbRail num v c (nextResid r x) y := by
  simp only [hbRail_eq]
  exact overlapRail_append (hbOut_readsWindow num v c) hr hd y

theorem hbRails_append {r x : List Cplx} (hr : r.length = c.length - 1) (hd : 2 ∣ x.length) (y : List Cplx) :
    hbRails num v c r (x ++ y) = hbRails num v c r x ++ hbRails num v c (nextResid r x) y := by
  simp only [hbRails, railI_append, railQ_append, railI_nextResid, railQ_nextResid]
  rw [hbRail_append num v (by simpa) (by simpa), hbRail_append num v (by simpa) (by simpa), joinRails_append (by simp)]

theorem hilRails_append {ri rq : List F32} (hi : ri.length = 11) (hq : rq.length = 23) (x y : List Cplx) :
    hilRails num v c ri rq (x ++ y) =
      hilRails num v c ri rq x ++ hilRails num v c (nextResid ri (railI x)) (nextResid rq (railQ x)) y := by
  simp only [hilRails_eq, railI_append, railQ_append]
  rw [overlapRail_append (hilOut_fst_readsWindow num v c) hi (one_dvd _),
    overlapRail_append (hilOut_snd_readsWindow num v c) hq (one_dvd _), joinRails_append (by simp)]

end

theorem hilAdvanced_append (u : Hil) (x y : List Cplx) : hilAdvanced (hilAdvanced u x) y = hilAdvanced u (x ++ y) := by
  simp [hilAdvanced, signPairs_append, railI_append, railQ_append, nextResid_append, nextPar_add]

end Sys2Proof.Machine
end

section
/-! SUPPORT. `PROC` of the overlap-save filters: its effect on a legal block (R163, R164, R197, R198, R227), and chunking
invariance (R166) for any command whose unit carries a value from block to block. -/

namespace Sys2Proof.Machine

/-! The effect of a `PROC`; the unit is named, as a run finds it in an updated bank. -/

section
variable {s : State} {i : Inst}

theorem exec_firrProc {u : Fir F32} {x : List F32} (hu : s.firr.at i = u) (hi : i.toNat < s.params.nFirr)
    (hc : u.constructed = true) (hx : LegalBlock s.params (firGran u) x.length) :
    exec (.firrProc i x) s =
      let y := firRail s.params.numerics u.ivar u.coef u.decim.toNat u.resid x
      .next { s with
        firr := s.firr.put i { u with resid := nextResid u.resid x }
        rsp := s.rsp ++ [responseWord .ok y.length :: y] } := by
  subst hu
  exact command_of_present hi (procChecks_pass.mpr ⟨hc, hx⟩)

theorem exec_fircProc {u : Fir Cplx} {x : List Cplx} (hu : s.firc.at i = u) (hi : i.toNat < s.params.nFirc)
    (hc : u.constructed = true) (hx : LegalBlock s.params (firGran u) x.length) :
    exec (.fircProc i x) s =
      let y := firRails s.params.numerics u.ivar u.coef u.decim.toNat u.resid x
      .next { s with
        firc := s.firc.put i { u with resid := nextResid u.resid x }
        rsp := s.rsp ++ [responseWord .ok y.length :: interleave y] } := by
  subst hu
  exact command_of_present hi (procChecks_pass.mpr ⟨hc, hx⟩)

theorem exec_hbrProc {u : Hb F32} {x : List F32} (hu : s.hbr.at i = u) (hi : i.toNat < s.params.nHbr)
    (hc : u.constructed = true) (hx : LegalBlock s.params (hbGran u) x.length) :
    exec (.hbrProc i x) s =
      let y := hbRail s.params.numerics u.ivar u.coef u.resid x
      .next { s with
        hbr := s.hbr.put i { u with resid := nextResid u.resid x }
        rsp := s.rsp ++ [responseWord .ok y.length :: y] } := by
  subst hu
  exact command_of_present hi (procChecks_pass.mpr ⟨hc, hx⟩)

theorem exec_hbcProc {u : Hb Cplx} {x : List Cplx} (hu : s.hbc.at i = u) (hi : i.toNat < s.params.nHbc)
    (hc : u.constructed = true) (hx : LegalBlock s.params (hbGran u) x.length) :
    exec (.hbcProc i x) s =
      let y := hbRails s.params.numerics u.ivar u.coef u.resid x
      .next { s with
        hbc := s.hbc.put i { u with resid := nextResid u.resid x }
        rsp := s.rsp ++ [responseWord .ok y.length :: interleave y] } := by
  subst hu
  exact command_of_present hi (procChecks_pass.mpr ⟨hc, hx⟩)

theorem exec_hilProc {u : Hil} {r : List Cplx} (hu : s.hil.at i = u) (hi : i.toNat < s.params.nHil)
    (hc : u.constructed = true) (hr : LegalBlock s.params (lanes u.ivar) r.length) :
    exec (.hilProc i r) s =
      let y := hilRails s.params.numerics u.ivar u.coef u.residI u.residQ (signPairs u.par r)
      .next { s with
        hil := s.hil.put i (hilAdvanced u r)
        rsp := s.rsp ++ [responseWord .ok y.length :: interleave y] } := by
  subst hu
  exact command_of_present hi (procChecks_pass.mpr ⟨hc, hr⟩)

end

/-! Chunking (R166). -/

/-- A command takes a stream of blocks: in the state `carrying c`, whose unit carries `c`, with anything on `RSP`, a
legal block leaves `next` carried and answers `out`, and a block may be cut in two where its first part is legal. -/
structure Streams {α C : Type} (proc : List α → Instr) (legal : Nat → Prop) (carrying : C → State) (ok : C → Prop)
    (next : C → List α → C) (out : C → List α → List Word) : Prop where
  exec_block : ∀ {c x}, ok c → legal x.length → ∀ rsp, ∃ w,
    exec (proc x) { carrying c with rsp := rsp } = .next { carrying (next c x) with rsp := rsp ++ [w :: out c x] }
  ok_next : ∀ {c}, ok c → ∀ x, ok (next c x)
  next_nil : ∀ c, next c [] = c
  next_append : ∀ c x y, next (next c x) y = next c (x ++ y)
  out_nil : ∀ c, out c [] = []
  out_append : ∀ {c x}, ok c → legal x.length → ∀ y, out c (x ++ y) = out c x ++ out (next c x) y

section
variable {α C : Type} {proc : List α → Instr} {legal : Nat → Prop} {carrying : C → State} {ok : C → Prop}
  {next : C → List α → C} {out : C → List α → List Word}

/-- A run over blocks leaves and answers what their concatenation would as one block, were it legal. -/
theorem Streams.run (h : Streams proc legal carrying ok next out) {bs : List (List α)} (hbs : ∀ b ∈ bs, legal b.length)
    {c : C} (hc : ok c) (rsp : List (List Word)) :
    ∃ rs : List (List Word), rs.flatMap List.tail = out c bs.flatten ∧
      State.run { carrying c with rsp := rsp } (bs.map proc) = { carrying (next c bs.flatten) with rsp := rsp ++ rs } := by
  induction bs generalizing c rsp with
  | nil => exact ⟨[], by simp [h.out_nil], by simp [h.next_nil, State.run]⟩
  | cons b bs ih =>
    obtain ⟨hb, hbs⟩ := List.forall_mem_cons.mp hbs
    obtain ⟨w, hexec⟩ := h.exec_block hc hb rsp
    obtain ⟨rs, hout, hrun⟩ := ih hbs (h.ok_next hc b) (rsp ++ [w :: out c b])
    refine ⟨(w :: out c b) :: rs, ?_, ?_⟩
    · simp [hout, h.out_append hc hb]
    · rw [List.map_cons, State.run, hexec]
      simp only [hrun, h.next_append, List.flatten_cons, List.append_assoc, List.singleton_append]

/-- Two cuts of one input answer the same words and leave the same but for `RSP`. -/
theorem Streams.chunkLaw (h : Streams proc legal carrying ok next out) {s : State} {c : C} (hs : carrying c = s)
    (hc : ok c) {same : State → State → Prop}
    (hsame : ∀ c r r', same { carrying c with rsp := r } { carrying c with rsp := r' }) :
    ChunkLaw proc legal same s := by
  subst hs
  intro bs cs hlegal hflat
  obtain ⟨hbs, hcs⟩ := List.forall_mem_append.mp hlegal
  obtain ⟨rs, hrs, hrun⟩ := h.run hbs hc (carrying c).rsp
  obtain ⟨rs', hrs', hrun'⟩ := h.run hcs hc (carrying c).rsp
  rw [hrun, hrun', hflat]
  exact ⟨by simp [outputs, hrs, hrs', hflat], hsame ..⟩

end

/-! The five filters; a legal block is cut where a window begins. -/

section
variable {s : State} {i : Inst}

theorem firrProc_streams (hi : i.toNat < s.params.nFirr) (hc : (s.firr.at i).constructed = true) :
    Streams (.firrProc i) (LegalBlock s.params (firGran (s.firr.at i)))
      (fun r => { s with firr := s.firr.put i { s.firr.at i with resid := r } })
      (fun r => r.length = (s.firr.at i).coef.length - 1) nextResid
      (firRail s.params.numerics (s.firr.at i).ivar (s.firr.at i).coef (s.firr.at i).decim.toNat) where
  exec_block _ hx _ :=
    ⟨_, Eq.trans (exec_firrProc (Bank.at_put_self ..) hi hc hx) (by simp only [Bank.put_put]; rfl)⟩
  ok_next hr _ := (length_nextResid ..).trans hr
  next_nil := nextResid_nil
  next_append := nextResid_append
  out_nil _ := by simp [firRail]
  out_append hr hx := firRail_append _ _ hr (dvd_of_mul_right_dvd (Nat.dvd_of_mod_eq_zero hx.2))

theorem fircProc_streams (hi : i.toNat < s.params.nFirc) (hc : (s.firc.at i).constructed = true) :
    Streams (.fircProc i) (LegalBlock s.params (firGran (s.firc.at i)))
      (fun r => { s with firc := s.firc.put i { s.firc.at i with resid := r } })
      (fun r => r.length = (s.firc.at i).coef.length - 1) nextResid
      (fun r x => interleave
        (firRails s.params.numerics (s.firc.at i).ivar (s.firc.at i).coef (s.firc.at i).decim.toNat r x)) where
  exec_block _ hx _ :=
    ⟨_, Eq.trans (exec_fircProc (Bank.at_put_self ..) hi hc hx) (by simp only [Bank.put_put]; rfl)⟩
  ok_next hr _ := (length_nextResid ..).trans hr
  next_nil := nextResid_nil
  next_append := nextResid_append
  out_nil _ := by simp [firRails, firRail, railI, railQ, joinRails, interleave]
  out_append hr hx _ := by
    rw [firRails_append _ _ hr (dvd_of_mul_right_dvd (Nat.dvd_of_mod_eq_zero hx.2)), interleave_append]

theorem hbrProc_streams (hi : i.toNat < s.params.nHbr) (hc : (s.hbr.at i).constructed = true) :
    Streams (.hbrProc i) (LegalBlock s.params (hbGran (s.hbr.at i)))
      (fun r => { s with hbr := s.hbr.put i { s.hbr.at i with resid := r } })
      (fun r => r.length = (s.hbr.at i).coef.length - 1) nextResid
      (hbRail s.params.numerics (s.hbr.at i).ivar (s.hbr.at i).coef) where
  exec_block _ hx _ :=
    ⟨_, Eq.trans (exec_hbrProc (Bank.at_put_self ..) hi hc hx) (by simp only [Bank.put_put]; rfl)⟩
  ok_next hr _ := (length_nextResid ..).trans hr
  next_nil := nextResid_nil
  next_append := nextResid_append
  out_nil _ := by simp [hbRail]
  out_append hr hx := hbRail_append _ _ hr (dvd_of_mul_right_dvd (Nat.dvd_of_mod_eq_zero hx.2))

theorem hbcProc_streams (hi : i.toNat < s.params.nHbc) (hc : (s.hbc.at i).constructed = true) :
    Streams (.hbcProc i) (LegalBlock s.params (hbGran (s.hbc.at i)))
      (fun r => { s with hbc := s.hbc.put i { s.hbc.at i with resid := r } })
      (fun r => r.length = (s.hbc.at i).coef.length - 1) nextResid
      (fun r x => interleave (hbRails s.params.numerics (s.hbc.at i).ivar (s.hbc.at i).coef r x)) where
  exec_block _ hx _ :=
    ⟨_, Eq.trans (exec_hbcProc (Bank.at_put_self ..) hi hc hx) (by simp only [Bank.put_put]; rfl)⟩
  ok_next hr _ := (length_nextResid ..).trans hr
  next_nil := nextResid_nil
  next_append := nextResid_append
  out_nil _ := by simp [hbRails, hbRail, railI, railQ, joinRails, interleave]
  out_append hr hx _ := by
    rw [hbRails_append _ _ hr (dvd_of_mul_right_dvd (Nat.dvd_of_mod_eq_zero hx.2)), interleave_append]

/-- The Hilbert unit carries two residuals and a parity, so the whole unit is what is carried. -/
theorem hilProc_streams (hi : i.toNat < s.params.nHil) :
    Streams (.hilProc i) (LegalBlock s.params (lanes (s.hil.at i).ivar))
      (fun u => { s with hil := s.hil.put i u })
      (fun u => u.constructed = true ∧ u.ivar = (s.hil.at i).ivar ∧ u.residI.length = 11 ∧ u.residQ.length = 23)
      hilAdvanced
      (fun u r => interleave
        (hilRails s.params.numerics u.ivar u.coef u.residI u.residQ (signPairs u.par r))) where
  exec_block hu hx _ :=
    ⟨_, Eq.trans (exec_hilProc (Bank.at_put_self ..) hi hu.1 (hu.2.1 ▸ hx)) (by simp only [Bank.put_put]; rfl)⟩
  ok_next := fun ⟨hc, hv, hI, hQ⟩ _ =>
    ⟨hc, hv, (length_nextResid ..).trans hI, (length_nextResid ..).trans hQ⟩
  next_nil u := by cases u; simp [hilAdvanced, signPairs, railI, railQ, nextResid_nil, nextPar]
  next_append := hilAdvanced_append
  out_nil _ := by simp [hilRails, signPairs, interleave]
  out_append := fun ⟨_, _, hI, hQ⟩ _ _ => by
    rw [signPairs_append, hilRails_append _ _ hI hQ, interleave_append]
    rfl

end

/-! Residuals of constructed units (R30, R31). -/

theorem FirOk.length_resid {σ : Type} {P : Params} {u : Fir σ} (h : FirOk P u) (hc : u.constructed = true) :
    u.resid.length = u.coef.length - 1 := by
  rw [FirOk, if_pos hc] at h
  obtain ⟨-, -, -, hlen, -⟩ := h
  exact hlen

theorem HbOk.length_resid {σ : Type} {P : Params} {u : Hb σ} (h : HbOk P u) (hc : u.constructed = true) :
    u.resid.length = u.coef.length - 1 := by
  rw [HbOk, if_pos hc] at h
  obtain ⟨-, -, -, -, hlen, -⟩ := h
  exact hlen

theorem HilOk.length_resids {P : Params} {u : Hil} (h : HilOk P u) (hc : u.constructed = true) :
    u.residI.length = 11 ∧ u.residQ.length = 23 := by
  rw [HilOk, if_pos hc] at h
  obtain ⟨-, -, hI, hQ, -⟩ := h
  exact ⟨hI, hQ⟩

/-- Settles O40: each filter takes a stream of blocks, and in a legal state its residuals are as long as the windows of
its outputs reach back. -/
theorem overlapSaveChunking : Obligations.OverlapSaveChunking := by
  intro s i hs
  refine ⟨fun hi hc => ?_, fun hi hc => ?_, fun hi hc => ?_, fun hi hc => ?_, fun hi hc => ?_⟩
  · exact (firrProc_streams hi hc).chunkLaw (congrArg (fun b => { s with firr := b }) (Bank.put_at s.firr i))
      ((hs.firr i).length_resid hc) fun _ _ _ => rfl
  · exact (fircProc_streams hi hc).chunkLaw (congrArg (fun b => { s with firc := b }) (Bank.put_at s.firc i))
      ((hs.firc i).length_resid hc) fun _ _ _ => rfl
  · exact (hbrProc_streams hi hc).chunkLaw (congrArg (fun b => { s with hbr := b }) (Bank.put_at s.hbr i))
      ((hs.hbr i).length_resid hc) fun _ _ _ => rfl
  · exact (hbcProc_streams hi hc).chunkLaw (congrArg (fun b => { s with hbc := b }) (Bank.put_at s.hbc i))
      ((hs.hbc i).length_resid hc) fun _ _ _ => rfl
  · exact (hilProc_streams hi).chunkLaw (congrArg (fun b => { s with hil := b }) (Bank.put_at s.hil i))
      ⟨hc, rfl, (hs.hil i).length_resids hc⟩ fun _ _ _ => rfl

/-! Outputs of the generic FIR, one by one (R162, R164). -/

theorem getElem?_firRail (num : Numerics) (v : Variant) (c : List F32) (r : List F32) {x : List F32} {d m : Nat}
    (h : m < x.length / d) : (firRail num v c d r x)[m]? = some (firOut num v c d (workBuf r x) m) := by
  simp [firRail, h]

theorem getElem?_firRails (num : Numerics) (v : Variant) (c : List F32) (r : List Cplx) {x : List Cplx} {d m : Nat}
    (h : m < x.length / d) : (firRails num v c d r x)[m]? =
      some (firOut num v c d (railI (workBuf r x)) m, firOut num v c d (railQ (workBuf r x)) m) := by
  rw [firRails, joinRails, List.getElem?_zip_eq_some, getElem?_firRail _ _ _ _ (by simpa),
    getElem?_firRail _ _ _ _ (by simpa), workBuf, workBuf, workBuf, railI_append, railQ_append]
  exact ⟨rfl, rfl⟩

/-- Settles O33, by the effect of a `PROC` and the elements of its outputs. -/
theorem firProcFilters : Obligations.FirProcFilters := by
  refine fun s i => ⟨fun x hi hc hx => ?_, fun x hi hc hx => ?_⟩
  · exact ⟨_, length_firRail .., fun m hm => getElem?_firRail _ _ _ _ (length_firRail .. ▸ hm),
      exec_firrProc rfl hi hc hx⟩
  · exact ⟨_, length_firRails .., fun m hm => getElem?_firRails _ _ _ _ (length_firRails .. ▸ hm),
      exec_fircProc rfl hi hc hx⟩

end Sys2Proof.Machine
end

section
/-! SUPPORT. `CLR` (R165, R199, R228, R247, R263, R291). -/

namespace Sys2Proof.Machine

/-- A slot that is put back unless the flag is set: what a `CLR` does to its bank. -/
theorem Bank.put_ite_at {α : Type} (b : Bank α) (i : Inst) (flag : Bool) (u : α) :
    b.put i (if flag then u else b.at i) = if flag then b.put i u else b := by
  cases flag
  · exact Bank.put_at b i
  · rfl

/-- Settles O39: a `CLR` checks nothing but its `INST`, and puts an unconstructed unit back as it was. -/
theorem clearKeepsTheConstruction : Obligations.ClearKeepsTheConstruction := by
  refine fun s i => ⟨fun hi => ?_, fun hi => ?_, fun hi => ?_, fun hi => ?_, fun hi => ?_, fun hi => ?_, fun hi => ?_,
    fun hi => ?_⟩
  all_goals
    rw [← Bank.put_ite_at]
    exact command_of_present hi rfl

end Sys2Proof.Machine
end

section
/-! SUPPORT. Outputs of the half-band filter, one by one (R196, R197, R198). -/

namespace Sys2Proof.Machine

/-- The even numbers below `n` are the doubles of the numbers below half of it, rounded up. -/
theorem range_filter_even (n : Nat) :
    (List.range n).filter (fun k => k % 2 = 0) = (List.range ((n + 1) / 2)).map fun j => 2 * j := by
  induction n with
  | zero => rfl
  | succ n ih =>
    rw [List.range_succ, List.filter_append, ih]
    obtain hn | hn := Nat.mod_two_eq_zero_or_one n
    · have hhalf : (n + 1 + 1) / 2 = (n + 1) / 2 + 1 := by omega
      have hlast : 2 * ((n + 1) / 2) = n := by omega
      simp [hn, hhalf, hlast, List.range_succ]
    · have hhalf : (n + 1 + 1) / 2 = (n + 1) / 2 := by omega
      simp [hn, hhalf]

/-- `hbout(w, n)` with its folded pairs indexed by the even taps themselves, as R196 has them. -/
theorem hbOut_eq_sumBy_evenTaps (num : Numerics) (v : Variant) (c w : List F32) (n : Nat) :
    hbOut num v c w n =
      sumBy num v (fmul (elem c ((c.length - 1) / 2)) (elem w (n + (c.length - 1) / 2)) ::
        ((List.range ((c.length - 1) / 2)).filter fun k => k % 2 = 0).map fun k =>
          fmul (elem c k) (fadd (elem w (n + k)) (elem w (n + (c.length - 1) - k)))) := by
  rw [hbOut, range_filter_even, List.map_map]
  rfl

theorem getElem?_hbRail (num : Numerics) (v : Variant) (c : List F32) (r : List F32) {x : List F32} {m : Nat}
    (h : m < x.length / 2) : (hbRail num v c r x)[m]? = some (hbOut num v c (workBuf r x) (2 * m)) := by
  simp [hbRail, h]

theorem getElem?_hbRails (num : Numerics) (v : Variant) (c : List F32) (r : List Cplx) {x : List Cplx} {m : Nat}
    (h : m < x.length / 2) : (hbRails num v c r x)[m]? =
      some (hbOut num v c (railI (workBuf r x)) (2 * m), hbOut num v c (railQ (workBuf r x)) (2 * m)) := by
  rw [hbRails, joinRails, List.getElem?_zip_eq_some, getElem?_hbRail _ _ _ _ (by simpa),
    getElem?_hbRail _ _ _ _ (by simpa), workBuf, workBuf, workBuf, railI_append, railQ_append]
  exact ⟨rfl, rfl⟩

/-- Settles O34, by the effect of a `PROC` and the elements of its outputs, read over the even taps. -/
theorem halfBandProcFilters : Obligations.HalfBandProcFilters := by
  intro s i
  simp only [← hbOut_eq_sumBy_evenTaps]
  refine ⟨fun x hi hc _ hx => ?_, fun x hi hc _ hx => ?_⟩
  · exact ⟨_, length_hbRail .., fun m hm => getElem?_hbRail _ _ _ _ (length_hbRail .. ▸ hm),
      exec_hbrProc rfl hi hc hx⟩
  · exact ⟨_, length_hbRails .., fun m hm => getElem?_hbRails _ _ _ _ (length_hbRails .. ▸ hm),
      exec_hbcProc rfl hi hc hx⟩

end Sys2Proof.Machine
end

section
/-! SUPPORT. Signs, outputs and parity of the Hilbert transformer, one by one (R221, R224, R226). -/

namespace Sys2Proof.Machine

/-- The sequences A and B, pair by pair (R221, R226). -/
theorem getElem?_rails_signPairs (odd : Bool) {r : List Cplx} {p : Nat} {q : Cplx} (h : r[p]? = some q) :
    ((railI (signPairs odd r))[p]?, (railQ (signPairs odd r))[p]?) =
      if (odd.toNat + p) % 2 = 1 then (some (fneg q.1), some q.2) else (some q.1, some (fneg q.2)) := by
  rw [railI, railQ, List.getElem?_map, List.getElem?_map, getElem?_signPairs odd r p q h]
  split
  · rfl
  · rfl

theorem getElem?_hilRails (num : Numerics) (v : Variant) (c ri rq : List F32) {ab : List Cplx} {m : Nat}
    (h : m < ab.length) : (hilRails num v c ri rq ab)[m]? =
      some (hilOut num v c (workBuf ri (railI ab)) (workBuf rq (railQ ab)) m) := by
  simp [hilRails, h]

/-- `PAR` after a block has the parity of `PAR` plus the block's length (R226). -/
theorem nextPar_eq_decide (par : Bool) (n : Nat) : nextPar par n = decide ((par.toNat + n) % 2 = 1) := by
  cases par with
  | false => simp [nextPar]
  | true =>
    rw [nextPar, Bool.true_bne, ← decide_not, decide_eq_decide, Bool.toNat_true]
    omega

/-- The unit after a block, with its residuals written out over the rails A and B (R226, R227). -/
theorem hilAdvanced_eq (u : Hil) (r : List Cplx) :
    hilAdvanced u r = { u with
      residI := (u.residI ++ railI (signPairs u.par r)).drop r.length
      residQ := (u.residQ ++ railQ (signPairs u.par r)).drop r.length
      par := decide ((u.par.toNat + r.length) % 2 = 1) } := by
  simp [hilAdvanced, nextResid, workBuf, nextPar_eq_decide]

/-- Settles O35: A and B are the rails of the sign-alternated pairs, and the effect of a `PROC` and the elements of its
outputs are read over them. -/
theorem hilbertProcTransforms : Obligations.HilbertProcTransforms := by
  intro s i r hi hc hr u
  have hab : (signPairs u.par r).length = r.length := length_signPairs ..
  have hy : (hilRails s.params.numerics u.ivar u.coef u.residI u.residQ (signPairs u.par r)).length = r.length :=
    (length_hilRails ..).trans hab
  refine ⟨railI (signPairs u.par r), railQ (signPairs u.par r), _, (length_railI _).trans hab,
    (length_railQ _).trans hab, hy, fun p q => getElem?_rails_signPairs u.par,
    fun m hm => getElem?_hilRails _ _ _ _ _ (hab ▸ hm), ?_⟩
  rw [← hilAdvanced_eq, ← hy]
  exact exec_hilProc rfl hi hc hr

end Sys2Proof.Machine
end

section
/-! SUPPORT. Construction of the element-wise units (R242, R257, R269, R286): their `LOAD`s check their `INST` alone, and
`MIX.LOAD` that of its oscillator too. -/

namespace Sys2Proof.Machine

/-- Settles O31: the `INST` checks are all that keeps a `LOAD` from its effect. -/
theorem elementwiseLoadConstructs : Obligations.ElementwiseLoadConstructs := by
  refine fun s i w => ⟨fun hi => ?_, fun hi => ?_, fun hi ho => ?_, fun hi ho => ?_, fun hi => ?_⟩
  · exact command_of_present hi firstError_nil
  · exact command_of_present hi firstError_nil
  · have oscillator : firstError [instCheck s .nco i] = none :=
      firstError_instCheck_none.mpr ⟨(hasInst_iff s .nco i).mpr ho, firstError_nil⟩
    exact command_of_present hi oscillator
  · have mixer : s.hasInst .mix i = true := (hasInst_iff s .mix i).mpr hi
    have noOscillator : ¬s.hasInst .nco i = true := mt (hasInst_iff s .nco i).mp (Nat.not_lt.mpr ho)
    refine command_error ?_
    rw [firstError_instCheck, if_pos mixer, firstError_instCheck, if_neg noOscillator]
  · exact command_of_present hi firstError_nil

end Sys2Proof.Machine
end

section
/-! SUPPORT. The recurrences of the DC removal and the FM demodulator, sample by sample (R240, R290), and the effect of
their `PROC`s on a legal block (R246, R290). -/

namespace Sys2Proof.Machine

/-! DC removal. -/

/-- The estimate as it stands before sample `n` of a block, or after the block where `n` is its length (R240). -/
def dcrEstimate (alpha avg : F32) (x : List F32) (n : Nat) : F32 := (dcrRun alpha avg (x.take n)).2

theorem dcrEstimate_zero (alpha avg : F32) (x : List F32) : dcrEstimate alpha avg x 0 = avg := rfl

theorem dcrEstimate_length (alpha avg : F32) (x : List F32) :
    dcrEstimate alpha avg x x.length = (dcrRun alpha avg x).2 := by
  rw [dcrEstimate, List.take_length]

/-- The estimate follows its recurrence (R240). -/
theorem dcrEstimate_succ (alpha avg : F32) {x : List F32} {n : Nat} (h : n < x.length) :
    dcrEstimate alpha avg x (n + 1) = fadd (dcrEstimate alpha avg x n)
      (fmul alpha (fsub (elem x n) (dcrEstimate alpha avg x n))) := by
  induction x generalizing avg n with
  | nil => cases h
  | cons a t ih =>
    cases n with
    | zero => rfl
    | succ n => exact ih _ (Nat.lt_of_succ_lt_succ h)

/-- Each output subtracts the estimate as it stood before its sample (R240). -/
theorem getElem?_dcrRun (alpha avg : F32) {x : List F32} {n : Nat} (h : n < x.length) :
    (dcrRun alpha avg x).1[n]? = some (fsub (elem x n) (dcrEstimate alpha avg x n)) := by
  induction x generalizing avg n with
  | nil => cases h
  | cons a t ih =>
    cases n with
    | zero => rfl
    | succ n => exact ih _ (Nat.lt_of_succ_lt_succ h)

theorem exec_dcrProc {s : State} {i : Inst} {u : Dcr} {x : List F32} (hu : s.dcr.at i = u)
    (hi : i.toNat < s.params.nDcr) (hc : u.constructed = true) (hx : LegalBlock s.params (lanes u.ivar) x.length) :
    exec (.dcrProc i x) s =
      .next { s with
        dcr := s.dcr.put i { u with avg := (dcrRun u.alpha u.avg x).2 }
        rsp := s.rsp ++ [responseWord .ok x.length :: (dcrRun u.alpha u.avg x).1] } := by
  subst hu
  rw [← length_dcrRun (s.dcr.at i).alpha (s.dcr.at i).avg x]
  exact command_of_present hi (procChecks_pass.mpr ⟨hc, hx⟩)

/-! FM demodulator. -/

/-- Each output is of its sample and the one before it, `prev` standing before the first (R290). -/
theorem getElem?_fmdRun (P : Params) (prev : Cplx) {x : List Cplx} {n : Nat} (h : n < x.length) (d : Cplx) :
    (fmdRun P prev x)[n]? = some (fmdOut P ((prev :: x).getD n d) ((prev :: x).getD (n + 1) d)) := by
  induction x generalizing prev n with
  | nil => cases h
  | cons a t ih =>
    cases n with
    | zero => rfl
    | succ n => exact ih a (Nat.lt_of_succ_lt_succ h)

/-- The last sample seen ends the block that `prev` stands before (R290). -/
theorem fmdLast_eq_getD (prev : Cplx) (x : List Cplx) (d : Cplx) : fmdLast prev x = (prev :: x).getD x.length d := by
  cases x with
  | nil => rfl
  | cons a t => simp [fmdLast, List.getLast?_eq_getElem?]

theorem exec_fmdProc {s : State} {i : Inst} {u : Fmd} {x : List Cplx} (hu : s.fmd.at i = u)
    (hi : i.toNat < s.params.nFmd) (hc : u.constructed = true) (hx : LegalBlock s.params (lanes u.ivar) x.length) :
    exec (.fmdProc i x) s =
      .next { s with
        fmd := s.fmd.put i (fmdAdvanced u x)
        rsp := s.rsp ++ [responseWord .ok x.length :: fmdRun s.params (u.prevI, u.prevQ) x] } := by
  subst hu
  rw [← length_fmdRun s.params ((s.fmd.at i).prevI, (s.fmd.at i).prevQ) x]
  exact command_of_present hi (procChecks_pass.mpr ⟨hc, hx⟩)

/-- Settles O36, by the effect of a `PROC`, the elements of its outputs and the value it carries on. -/
theorem recurrencesProc : Obligations.RecurrencesProc := by
  refine fun s i => ⟨fun x hi hc hx => ?_, fun x hi hc hx => ?_⟩
  · intro u
    refine ⟨(dcrRun u.alpha u.avg x).1, dcrEstimate u.alpha u.avg x, length_dcrRun .., dcrEstimate_zero ..,
      fun n hn => ⟨getElem?_dcrRun _ _ hn, dcrEstimate_succ _ _ hn⟩, ?_⟩
    rw [dcrEstimate_length]
    exact exec_dcrProc rfl hi hc hx
  · intro u st
    refine ⟨fmdRun s.params (u.prevI, u.prevQ) x, length_fmdRun .., fun n hn => getElem?_fmdRun _ _ hn _, ?_⟩
    rw [exec_fmdProc rfl hi hc hx, fmdAdvanced, fmdLast_eq_getD]

end Sys2Proof.Machine
end

section
/-! SUPPORT. Effect of `NCO.GEN` and `MIX.PROC` on a legal block (R262, R268, R270). -/

namespace Sys2Proof.Machine

section
variable {s : State} {i : Inst} {u : Nco}

/-- The unit and the count are named, as a stream of requests finds them. -/
theorem exec_ncoGen {n : BitVec 22} {count : Nat} (hu : s.nco.at i = u) (hn : n.toNat = count)
    (hi : i.toNat < s.params.nNco) (hc : u.constructed = true)
    (hcount : LegalBlock s.params (lanes u.ivar) count) :
    exec (.ncoGen i n) s =
      .next { s with
        nco := s.nco.put i (ncoAdvanced u count)
        rsp := s.rsp ++ [responseWord .ok count :: interleave (ncoRun s.params u.phase u.inc count)] } := by
  subst hu hn
  exact command_of_present hi (procChecks_pass.mpr ⟨hc, hcount⟩)

/-- The block is checked against the mixer's variant; the oscillator's own does not matter (R270). -/
theorem exec_mixProc {x : List Cplx} (hu : s.nco.at i = u) (hi : i.toNat < s.params.nMix)
    (hm : (s.mix.at i).constructed = true) (hc : u.constructed = true)
    (hx : LegalBlock s.params (lanes (s.mix.at i).ivar) x.length) :
    exec (.mixProc i x) s =
      .next { s with
        nco := s.nco.put i (ncoAdvanced u x.length)
        rsp := s.rsp ++ [responseWord .ok x.length :: interleave (mixRun s.params u.phase u.inc x)] } := by
  subst hu
  refine command_of_present hi ?_
  rw [hm]
  exact procChecks_pass.mpr ⟨hc, hx⟩

end

/-- Settles O37, by the effect of the two commands and the elements of their outputs. -/
theorem oscillatorAndMixer : Obligations.OscillatorAndMixer := by
  refine fun s i => ⟨fun n hi hc hn => ?_, fun x hi hm hc hx => ?_⟩
  · exact ⟨_, length_ncoRun .., fun m hm => getElem?_ncoRun _ _ _ _ m hm, exec_ncoGen rfl rfl hi hc hn⟩
  · exact ⟨_, length_mixRun .., fun m v hv => getElem?_mixRun _ _ _ x m v hv, exec_mixProc rfl hi hm hc hx⟩

end Sys2Proof.Machine
end

section
/-! SUPPORT. Chunking invariance of the units that carry one value (R248, R264, R272, R292): the estimate of the DC removal,
the phase of the oscillator, the last sample of the FM demodulator. Unlike a filter's residual, every value may be carried,
and a block may be cut anywhere. -/

namespace Sys2Proof.Machine

section
variable {s : State} {i : Inst}

theorem dcrProc_streams (hi : i.toNat < s.params.nDcr) (hc : (s.dcr.at i).constructed = true) :
    Streams (.dcrProc i) (LegalBlock s.params (lanes (s.dcr.at i).ivar))
      (fun avg => { s with dcr := s.dcr.put i { s.dcr.at i with avg := avg } }) (fun _ => True)
      (fun avg x => (dcrRun (s.dcr.at i).alpha avg x).2) (fun avg x => (dcrRun (s.dcr.at i).alpha avg x).1) where
  exec_block _ hx _ :=
    ⟨_, Eq.trans (exec_dcrProc (Bank.at_put_self ..) hi hc hx) (by simp only [Bank.put_put]; rfl)⟩
  ok_next h _ := h
  next_nil _ := rfl
  next_append _ _ _ := by rw [dcrRun_append]
  out_nil _ := rfl
  out_append _ _ _ := by rw [dcrRun_append]

theorem mixProc_streams (hi : i.toNat < s.params.nMix) (hm : (s.mix.at i).constructed = true)
    (hc : (s.nco.at i).constructed = true) :
    Streams (.mixProc i) (LegalBlock s.params (lanes (s.mix.at i).ivar))
      (fun phase => { s with nco := s.nco.put i { s.nco.at i with phase := phase } }) (fun _ => True)
      (fun phase x => nextPhase phase (s.nco.at i).inc x.length)
      (fun phase x => interleave (mixRun s.params phase (s.nco.at i).inc x)) where
  exec_block _ hx _ :=
    ⟨_, Eq.trans (exec_mixProc (Bank.at_put_self ..) hi hm hc hx) (by simp only [Bank.put_put]; rfl)⟩
  ok_next h _ := h
  next_nil _ := by simp [nextPhase]
  next_append _ x y := by rw [nextPhase_add, List.length_append]
  out_nil _ := rfl
  out_append _ _ _ := by rw [mixRun_append, interleave_append]

theorem fmdProc_streams (hi : i.toNat < s.params.nFmd) (hc : (s.fmd.at i).constructed = true) :
    Streams (.fmdProc i) (LegalBlock s.params (lanes (s.fmd.at i).ivar))
      (fun prev => { s with fmd := s.fmd.put i { s.fmd.at i with prevI := prev.1, prevQ := prev.2 } }) (fun _ => True)
      fmdLast (fmdRun s.params) where
  exec_block _ hx _ :=
    ⟨_, Eq.trans (exec_fmdProc (Bank.at_put_self ..) hi hc hx) (by simp only [Bank.put_put]; rfl)⟩
  ok_next h _ := h
  next_nil _ := rfl
  next_append := fmdLast_append
  out_nil _ := rfl
  out_append _ _ _ := fmdRun_append ..

/-- The oscillator takes no samples; a request for `n` of them is read as a block of `n` ticks (R262). -/
theorem ncoGen_streams (hi : i.toNat < s.params.nNco) (hc : (s.nco.at i).constructed = true) :
    Streams (fun ticks : List Unit => .ncoGen i (BitVec.ofNat 22 ticks.length))
      (fun n => LegalBlock s.params (lanes (s.nco.at i).ivar) n ∧ n < 2 ^ 22)
      (fun phase => { s with nco := s.nco.put i { s.nco.at i with phase := phase } }) (fun _ => True)
      (fun phase ticks => nextPhase phase (s.nco.at i).inc ticks.length)
      (fun phase ticks => interleave (ncoRun s.params phase (s.nco.at i).inc ticks.length)) where
  exec_block _ h _ :=
    ⟨_, Eq.trans (exec_ncoGen (Bank.at_put_self ..) ((BitVec.toNat_ofNat ..).trans (Nat.mod_eq_of_lt h.2)) hi hc h.1)
      (by simp only [Bank.put_put]; rfl)⟩
  ok_next h _ := h
  next_nil _ := by simp [nextPhase]
  next_append _ _ _ := by rw [nextPhase_add, List.length_append]
  out_nil _ := rfl
  out_append _ _ _ := by rw [List.length_append, ncoRun_add, interleave_append]

/-- Continuity of the oscillator (R264): its chunk law, for two requests against one. -/
theorem ncoGen_continuous {n₁ n₂ n : BitVec 22} (hi : i.toNat < s.params.nNco) (hc : (s.nco.at i).constructed = true)
    (hn : n.toNat = n₁.toNat + n₂.toNat) (h₁ : LegalBlock s.params (lanes (s.nco.at i).ivar) n₁.toNat)
    (h₂ : LegalBlock s.params (lanes (s.nco.at i).ivar) n₂.toNat)
    (h : LegalBlock s.params (lanes (s.nco.at i).ivar) n.toNat) :
    outputs s (s.run [.ncoGen i n₁, .ncoGen i n₂]) = outputs s (s.run [.ncoGen i n]) ∧
      (s.run [.ncoGen i n₁, .ncoGen i n₂]).nco = (s.run [.ncoGen i n]).nco := by
  have law := (ncoGen_streams hi hc).chunkLaw (same := fun t u => t.nco = u.nco)
    (congrArg (fun b => { s with nco := b }) (Bank.put_at s.nco i)) trivial fun _ _ _ => rfl
  have cut := law [List.replicate n₁.toNat (), List.replicate n₂.toNat ()] [List.replicate n.toNat ()]
    (by simpa using ⟨⟨h₁, n₁.isLt⟩, ⟨h₂, n₂.isLt⟩, h, n.isLt⟩) (by simp [hn])
  simpa using cut

end

/-- Settles O41: each unit takes a stream of blocks, and the outputs of a joined block are those of its parts from the
carried value on; the oscillator's samples likewise. -/
theorem carriedValueChunking : Obligations.CarriedValueChunking := by
  intro s i
  refine ⟨fun hi hc => ?_, fun hi hm hc => ?_, fun hi hc => ?_, fun n₁ n₂ n hi hc hn hmax h₁ h₂ => ?_⟩
  · exact (dcrProc_streams hi hc).chunkLaw (congrArg (fun b => { s with dcr := b }) (Bank.put_at s.dcr i))
      trivial fun _ _ _ => rfl
  · exact (mixProc_streams hi hm hc).chunkLaw (congrArg (fun b => { s with nco := b }) (Bank.put_at s.nco i))
      trivial fun _ _ _ => rfl
  · exact (fmdProc_streams hi hc).chunkLaw (c := ((s.fmd.at i).prevI, (s.fmd.at i).prevQ))
      (congrArg (fun b => { s with fmd := b }) (Bank.put_at s.fmd i)) trivial fun _ _ _ => rfl
  · have h : n.toNat % lanes (s.nco.at i).ivar = 0 := by
      rw [hn, Nat.add_mod, h₁, h₂, Nat.zero_add, Nat.zero_mod]
    exact ncoGen_continuous hi hc hn ⟨by omega, h₁⟩ ⟨by omega, h₂⟩ ⟨hmax, h⟩

end Sys2Proof.Machine
end

section
/-! SUPPORT. Phase 2 of a drain as one equation (R312, R318): the channel, the output blocks and the error record that
its blocks make, block after block; what processing neither reads nor writes of the channel. -/

namespace Sys2Proof.Machine

/-! What processing leaves alone. -/

/-- The part of a channel that processing a block neither reads nor writes. -/
structure Ledger where
  queue : List Block
  ovf : Bool
  drops : Word
  blkerr : Word
  inflight : Option (List Block)

/-- The channel with this ledger. -/
def Cop.withLedger (q : Cop) (l : Ledger) : Cop :=
  { q with queue := l.queue, ovf := l.ovf, drops := l.drops, blkerr := l.blkerr, inflight := l.inflight }

/-- The ledger of a channel. -/
def Cop.ledger (q : Cop) : Ledger := ⟨q.queue, q.ovf, q.drops, q.blkerr, q.inflight⟩

/-- Reassembly does not see the ledger. -/
theorem assemble_withLedger (q : Cop) (l : Ledger) (ts : Stamp) (x : List Cplx) :
    assemble (q.withLedger l) ts x = ((assemble q ts x).1.withLedger l, (assemble q ts x).2) := by
  induction x generalizing q with
  | nil => rfl
  | cons v vs ih =>
    have hbuf (asm : List Cplx) : (q.withLedger l).buffer ts asm = (q.buffer ts asm).withLedger l := rfl
    have hcond : (((q.withLedger l).asm ++ [v]).length = (q.withLedger l).outblk.toNat) =
        ((q.asm ++ [v]).length = q.outblk.toNat) := rfl
    simp only [assemble_cons, hbuf, ih, hcond]
    split <;> rfl

theorem processBlock_withLedger (P : Params) (q : Cop) (l : Ledger) (b : Block) :
    processBlock P (q.withLedger l) b = ((processBlock P q b).1.withLedger l, (processBlock P q b).2) :=
  assemble_withLedger { q with fphase := correctedPhase q b.data.length } l b.ts (applyGain q.gain (correct P q b.data))

theorem processAll_withLedger (P : Params) (q : Cop) (l : Ledger) (bs : List Block) :
    processAll P (q.withLedger l) bs = ((processAll P q bs).1.withLedger l, (processAll P q bs).2) := by
  induction bs generalizing q with
  | nil => rfl
  | cons b bs ih => simp only [processAll, processBlock_withLedger, ih]

theorem processAll_append (P : Params) (q : Cop) (bs cs : List Block) :
    processAll P q (bs ++ cs) =
      ((processAll P (processAll P q bs).1 cs).1,
        (processAll P q bs).2 ++ (processAll P (processAll P q bs).1 cs).2) := by
  induction bs generalizing q with
  | nil => rfl
  | cons b bs ih => simp only [List.cons_append, processAll, ih, List.append_assoc]

/-- Processing keeps the ledger and the sizes. -/
theorem processAll_frame (P : Params) (q : Cop) (bs : List Block) :
    (processAll P q bs).1 = { q with
      asm := (processAll P q bs).1.asm
      asmTs := (processAll P q bs).1.asmTs
      fphase := (processAll P q bs).1.fphase } := by
  induction bs generalizing q with
  | nil => rfl
  | cons b bs ih => rw [processAll, ih, processBlock_frame]

theorem processAll_ledger (P : Params) (q : Cop) (bs : List Block) : (processAll P q bs).1.ledger = q.ledger := by
  rw [processAll_frame]
  rfl

/-! Counting. -/

/-- A counter after `n` more, saturating at 2^32 - 1 (R38, R114(b)). -/
def satAdd (w : Word) (n : Nat) : Word := BitVec.ofNat 32 (min (w.toNat + n) (2 ^ 32 - 1))

theorem toNat_satAdd (w : Word) (n : Nat) : (satAdd w n).toNat = min (w.toNat + n) (2 ^ 32 - 1) := by
  rw [satAdd, BitVec.toNat_ofNat]
  omega

@[simp] theorem satAdd_zero (w : Word) : satAdd w 0 = w := by
  refine BitVec.eq_of_toNat_eq ?_
  have := w.isLt
  rw [toNat_satAdd]
  omega

theorem satAdd_satAdd (w : Word) (m n : Nat) : satAdd (satAdd w m) n = satAdd w (m + n) := by
  refine BitVec.eq_of_toNat_eq ?_
  simp only [toNat_satAdd]
  omega

theorem satInc_eq (w : Word) : satInc w = satAdd w 1 := by
  refine BitVec.eq_of_toNat_eq ?_
  have := w.isLt
  rw [toNat_satAdd, satInc]
  split
  next h =>
    rw [h]
    rfl
  next h =>
    have hne : w.toNat ≠ 2 ^ 32 - 1 := fun e => h (BitVec.eq_of_toNat_eq e)
    rw [BitVec.toNat_add, show (1 : Word).toNat = 1 from rfl]
    omega

/-! The blocks of a drain. -/

/-- The error record after the faulting blocks `bad` of a drain of channel `c` (R318). -/
def Sys.logFaults (u : Sys) (c : Inst) (bad : List Block) : Sys :=
  if bad = [] then u
  else { u with errflags := u.errflags ||| 0x40#32, lasterr := lasterrWord .blockProcessing ⟨11, 2, c⟩ }

theorem Sys.logFaults_append (u : Sys) (c : Inst) (xs ys : List Block) :
    u.logFaults c (xs ++ ys) = (u.logFaults c xs).logFaults c ys := by
  cases xs with
  | nil => rfl
  | cons x xs => cases ys <;> simp [Sys.logFaults, BitVec.or_assoc]

/-- The ledger after these faulting blocks: each is counted (R318). -/
def Ledger.faults (l : Ledger) (bad : List Block) : Ledger := { l with blkerr := satAdd l.blkerr bad.length }

theorem Ledger.faults_append (l : Ledger) (xs ys : List Block) : l.faults (xs ++ ys) = (l.faults xs).faults ys := by
  simp only [Ledger.faults, List.length_append, satAdd_satAdd]

/-- A channel after the blocks of a drain, and the output blocks they complete: those that do not fault are processed,
the others counted (R312, R318). -/
def Cop.drained (P : Params) (q : Cop) (bs : List Block) : Cop × List OutBlock :=
  let r := processAll P q (bs.filter fun b => !blockFault P b)
  (r.1.withLedger (q.ledger.faults (bs.filter (blockFault P))), r.2)

/-- A drain does not see the ledger, but for its count of faults. -/
theorem Cop.drained_withLedger (P : Params) (q : Cop) (l : Ledger) (bs : List Block) :
    (q.withLedger l).drained P bs =
      ((q.drained P bs).1.withLedger (l.faults (bs.filter (blockFault P))), (q.drained P bs).2) := by
  simp only [Cop.drained, processAll_withLedger]
  rfl

theorem Cop.drained_append (P : Params) (q : Cop) (bs cs : List Block) :
    q.drained P (bs ++ cs) =
      (((q.drained P bs).1.drained P cs).1, (q.drained P bs).2 ++ ((q.drained P bs).1.drained P cs).2) := by
  simp only [Cop.drained, List.filter_append, processAll_append, processAll_withLedger, Ledger.faults_append]
  rfl

/-- The channel a drain leaves, with its count of faults written out. -/
theorem Cop.drained_eq (P : Params) (q : Cop) (bs : List Block) :
    q.drained P bs =
      let r := processAll P q (bs.filter fun b => !blockFault P b)
      ({ r.1 with blkerr := satAdd q.blkerr (bs.filter (blockFault P)).length }, r.2) := by
  have hw : q.blkerr = (processAll P q (bs.filter fun b => !blockFault P b)).1.ledger.blkerr := by
    rw [processAll_ledger]
    rfl
  rw [Cop.drained, hw, ← processAll_ledger P q (bs.filter fun b => !blockFault P b)]
  rfl

theorem Cop.drained_nil (P : Params) (q : Cop) : q.drained P [] = (q, []) := by
  rw [Cop.drained_eq]
  simp [processAll]

theorem Cop.drained_of_fault {P : Params} {b : Block} (q : Cop) (h : blockFault P b = true) :
    q.drained P [b] = ({ q with blkerr := satInc q.blkerr }, []) := by
  rw [Cop.drained_eq, satInc_eq]
  simp [h, processAll]

theorem Cop.drained_of_sound {P : Params} {b : Block} (q : Cop) (h : blockFault P b = false) :
    q.drained P [b] = processBlock P q b := by
  have hw : q.blkerr = (processBlock P q b).1.blkerr := by rw [processBlock_frame]
  rw [Cop.drained_eq, hw]
  simp [h, processAll]

/-- The state after the blocks of a drain of channel `c` (R312, R318, R321). -/
def State.processed (s : State) (c : Inst) (bs : List Block) : State :=
  let r := (s.cop.at c).drained s.params bs
  { s with
    cop := s.cop.put c r.1
    sys := s.sys.logFaults c (bs.filter (blockFault s.params))
    notif := s.notif ++ List.replicate r.2.length (eventWord .outputBlock c) }

theorem putCop_at (s : State) (c : Inst) : s.putCop c (s.cop.at c) = s := by
  rw [State.putCop, Bank.put_at]

theorem State.processed_nil (s : State) (c : Inst) : s.processed c [] = s := by
  rw [State.processed, Cop.drained_nil, List.filter_nil, Sys.logFaults, if_pos rfl, List.length_nil,
    List.replicate_zero, List.append_nil]
  exact putCop_at s c

theorem State.processed_append (s : State) (c : Inst) (bs cs : List Block) :
    s.processed c (bs ++ cs) = (s.processed c bs).processed c cs := by
  simp only [State.processed, Cop.drained_append, Sys.logFaults_append, Bank.put_put, Bank.at_put_self,
    List.filter_append, List.length_append, List.replicate_add, List.append_assoc]

/-- One block of a drain. -/
theorem drainBlock_eq (c : Inst) (s : State) (out : List OutBlock) (b : Block) :
    drainBlock c (s, out) b = (s.processed c [b], out ++ ((s.cop.at c).drained s.params [b]).2) := by
  obtain ⟨hf, e⟩ | ⟨hf, e⟩ := drainBlock_cases c s out b
  · rw [e, State.processed, Cop.drained_of_fault _ hf]
    simp [hf, Sys.logFaults, State.logError, State.putSys, State.putCop, Status.code]
  · rw [e, State.processed, Cop.drained_of_sound _ hf]
    simp [hf, Sys.logFaults, State.emit, State.putCop]

theorem drainBlocks_eq (c : Inst) (s : State) (out : List OutBlock) (bs : List Block) :
    bs.foldl (drainBlock c) (s, out) = (s.processed c bs, out ++ ((s.cop.at c).drained s.params bs).2) := by
  induction bs generalizing s out with
  | nil => rw [State.processed_nil, List.foldl_nil, Cop.drained_nil, List.append_nil]
  | cons b bs ih =>
    have hcons : b :: bs = [b] ++ bs := rfl
    rw [List.foldl_cons, drainBlock_eq, ih, hcons, State.processed_append, Cop.drained_append, List.append_assoc]
    simp [State.processed]

/-- Phase 2 of a drain of the blocks `bs` (R312). -/
theorem finishDrain_eq {s : State} {c : Inst} {bs : List Block} (h : (s.cop.at c).inflight.getD [] = bs) :
    finishDrain s c =
      let r := (s.cop.at c).drained s.params bs
      ((s.processed c bs).putCop c { r.1 with inflight := none }).answer bs.length
        (countWord r.2.length :: r.2.flatMap outWords) := by
  subst h
  simp only [finishDrain, drainBlocks_eq, List.nil_append]
  simp [State.processed]

/-! Statements about phase 2. -/

theorem outWords_eq (o : OutBlock) :
    outWords o =
      BitVec.ofNat 32 (o.ts.toNat % 2 ^ 32) :: BitVec.ofNat 32 (o.ts.toNat / 2 ^ 32) :: interleave o.data := by
  rw [outWords, ← stampLo_toNat, ← stampHi_toNat, BitVec.ofNat_toNat, BitVec.ofNat_toNat, BitVec.setWidth_eq,
    BitVec.setWidth_eq]

theorem Sys.logFaults_eq (u : Sys) (c : Inst) (bad : List Block) :
    u.logFaults c bad = { u with
      errflags := if bad = [] then u.errflags else u.errflags ||| 0x40#32
      lasterr := if bad = [] then u.lasterr else lasterrWord .blockProcessing ⟨11, 2, c⟩ } := by
  unfold Sys.logFaults
  split <;> rfl

/-- Settles O54: the equation of phase 2 (`finishDrain_eq`), with its parts written out. -/
theorem drainProcessesWithFaultIsolation : Obligations.DrainProcessesWithFaultIsolation := by
  refine ⟨fun n => countWord_of_lt, fun s c bs hbs => ?_⟩
  rw [finishDrain_eq (bs := bs) (by rw [hbs, Option.getD_some])]
  simp only [State.processed, State.answer, State.respond, State.putCop, Cop.drained_eq, Sys.logFaults_eq, Bank.put_put,
    ← outWords_eq]
  rfl

end Sys2Proof.Machine
end

section
/-! SUPPORT. The commands of an opened channel as whole-state equations: a submission with room and at capacity (R303),
the dequeue (R310, R311); the refusals of a channel that is not opened, and what `COP.DETACH` leaves (R325, R406). -/

namespace Sys2Proof.Machine

/-! Submissions. -/

/-- Below capacity a block is appended (R306). -/
theorem copSubmitStep_room {s : State} {c : Inst} (b : Block)
    (h : (s.cop.at c).queue.length ≠ (s.cop.at c).capacity.toNat) :
    copSubmitStep s c b = { s with
      cop := s.cop.put c { s.cop.at c with queue := (s.cop.at c).queue ++ [b] }
      rsp := s.rsp ++ [[0x00000100]] } :=
  if_neg h

/-- At capacity a block is dropped and counted, with the event of the edge (R307, R308). -/
theorem copSubmitStep_full {s : State} {c : Inst} (b : Block)
    (h : (s.cop.at c).queue.length = (s.cop.at c).capacity.toNat) :
    copSubmitStep s c b = { s with
      cop := s.cop.put c { s.cop.at c with drops := satAdd (s.cop.at c).drops 1, ovf := true }
      notif := if (s.cop.at c).ovf then s.notif else s.notif ++ [eventWord .ovfEntered c]
      rsp := s.rsp ++ [[0x00000000]] } := by
  rw [← satInc_eq]
  refine (if_pos h).trans ?_
  cases (s.cop.at c).ovf <;> rfl

/-- Settles O52, by the two branches of a submission. -/
theorem submitAcceptsOrDropsNewest : Obligations.SubmitAcceptsOrDropsNewest := by
  intro s c lo hi x hc ho hx
  rw [exec_copSubmit_legal hc ho hx, ← stampOf_eq]
  exact ⟨fun h => congrArg _ (copSubmitStep_room _ h), fun h => congrArg _ (copSubmitStep_full _ h)⟩

/-! Drains. -/

theorem exec_copDrain_legal {s : State} {c : Inst} (m : BitVec 22) (hc : c.toNat < s.params.nCop)
    (ho : (s.cop.at c).opened = true) : exec (.copDrain c m) s = .next (drainDequeue s c m.toNat) :=
  command_of_present hc (by simp [ho])

/-- A dequeue of up to `m` blocks clears the overflow flag (R311). -/
def Cop.clears (q : Cop) (m : Nat) : Bool := ovfClears q (q.queue.drop m)

theorem Cop.clears_iff (q : Cop) (m : Nat) :
    q.clears m = true ↔ q.ovf = true ∧ q.queue.length - m < q.recovery.toNat := by
  simp [Cop.clears, ovfClears]

/-- The event of a dequeue (R311). -/
def Cop.clearEvents (q : Cop) (c : Inst) (m : Nat) : List Word := if q.clears m then [eventWord .ovfCleared c] else []

/-- The dequeue as one equation (R310, R311). -/
theorem drainDequeue_eq (s : State) (c : Inst) (m : Nat) :
    drainDequeue s c m = { s with
      cop := s.cop.put c { s.cop.at c with
        queue := (s.cop.at c).queue.drop m
        inflight := some ((s.cop.at c).queue.take m)
        ovf := (s.cop.at c).ovf && !(s.cop.at c).clears m }
      notif := s.notif ++ (s.cop.at c).clearEvents c m } := by
  unfold Cop.clearEvents Cop.clears
  obtain ⟨h, e⟩ | ⟨h, e⟩ := drainDequeue_cases s c m
  · rw [e, h]
    simp [State.emit, State.putCop]
  · rw [e, h]
    simp [State.putCop]

/-- Settles O53, by the equation of the dequeue. -/
theorem drainDequeuesTheOldest : Obligations.DrainDequeuesTheOldest := by
  intro s c m hc ho q k clears
  have hk : q.queue.length - k < q.recovery.toNat ↔ q.queue.length - m.toNat < q.recovery.toNat := by omega
  have hclears : q.clears m.toNat = true ↔ clears := by rw [Cop.clears_iff, ← hk]
  refine ⟨_, exec_copDrain_legal m hc ho, ?_, fun h => ?_, fun h => ?_⟩
  · have htake : q.queue.take k = q.queue.take m.toNat := List.take_eq_take_min.symm
    have hdrop : q.queue.drop k = q.queue.drop m.toNat := by
      rw [← List.append_cancel_left_eq (q.queue.take m.toNat), List.take_append_drop, ← htake, List.take_append_drop]
    rw [drainDequeue_eq, htake, hdrop, Bank.at_put_self]
  · rw [drainDequeue_eq, Cop.clearEvents, if_pos (hclears.mpr h), Bank.at_put_self]
    exact ⟨by rw [hclears.mpr h]; exact Bool.and_false _, rfl⟩
  · have hf : q.clears m.toNat = false := by simpa using mt hclears.mp h
    rw [drainDequeue_eq, Cop.clearEvents, if_neg (mt hclears.mp h), Bank.at_put_self, List.append_nil]
    exact ⟨by rw [hf]; exact Bool.and_true _, rfl⟩

/-! Channels that are not opened. -/

/-- A command of a present channel that is not opened (R406). -/
theorem command_of_closed {s t : State} {id : CmdId} {c : Inst} {cs : List (Bool × Status)}
    (hc : c.toNat < s.params.nCop) (ho : (s.cop.at c).opened = false) :
    s.command id (instCheck s .cop c :: (!(s.cop.at c).opened, .notConstructed) :: cs) t =
      .next (s.raise .notConstructed id) := by
  refine command_error ?_
  rw [firstError_instCheck, if_pos ((hasInst_iff s .cop c).mpr hc), ho]
  rfl

/-- A channel that is not opened reads 0 in every register (R24). -/
theorem readCop_closed {q : Cop} (h : q.opened = false) {n : Nat} {v : Word} (hv : readCop q n = some v) :
    v = 0#32 := by
  unfold readCop Cop.status at hv
  rw [h] at hv
  split at hv <;> cases hv <;> rfl

theorem exec_copDetach_legal {s : State} {c : Inst} (hc : c.toNat < s.params.nCop) (ho : (s.cop.at c).opened = true) :
    exec (.copDetach c) s = .next { s with
      cop := s.cop.put c { Cop.reset with inflight := (s.cop.at c).inflight }
      rsp := s.rsp ++ [[0x00000000]] } :=
  command_of_present hc (by simp [ho])

/-- Settles O56, by the checks of the three commands and by what a closed channel reads. -/
theorem detachDiscardsSilently : Obligations.DetachDiscardsSilently := by
  intro s c hc
  refine ⟨fun ho => ⟨_, exec_copDetach_legal hc ho, ?_⟩, fun ho => ⟨?_, fun _ _ _ => ?_, fun _ => ?_⟩,
    fun ho lo hi x hx => command_error ?_⟩
  · rw [Bank.at_put_self]
    refine ⟨rfl, rfl, rfl, rfl, rfl, rfl, rfl, fun n v hv => readCop_closed ?_ hv⟩
    rw [Bank.at_put_self]
    rfl
  · exact command_of_closed hc ho
  · exact command_of_closed hc ho
  · exact command_of_closed hc ho
  · rw [firstError_instCheck, if_pos ((hasInst_iff s .cop c).mpr hc)]
    simp [ho, hx]

end Sys2Proof.Machine
end

section
/-! SUPPORT. The sources of notifications (R410, R411): a submission, a dequeue, and phase 2 of a drain. -/

namespace Sys2Proof.Machine

/-- The outcome emits no notification. -/
def Quiet (s : State) (o : Host.Outcome State Fault Refusal) : Prop := ∀ t, o = .next t → t.notif = s.notif

theorem Quiet.of_eq {s t : State} {o : Host.Outcome State Fault Refusal} (h : o = .next t) (hn : t.notif = s.notif) :
    Quiet s o := fun _ hu => Host.Outcome.next.inj (hu.symm.trans h) ▸ hn

theorem Quiet.command {s t : State} {id : CmdId} {cs : List (Bool × Status)} (h : t.notif = s.notif) :
    Quiet s (s.command id cs t) := fun u hu => by
  obtain ⟨-, rfl⟩ | ⟨e, -, rfl⟩ := command_cases hu
  · exact h
  · rfl

theorem dbiAdvance_notif (s : State) (i : Inst) : (dbiAdvance s i).notif = s.notif := by
  unfold dbiAdvance
  dsimp only
  split
  · split <;> rfl
  · rfl

theorem execSysRdreg_quiet (i : Inst) (rk : BitVec 4) (n : BitVec 8) (s : State) : Quiet s (execSysRdreg i rk n s) := by
  obtain ⟨-, h⟩ | ⟨_, _, -, h⟩ := execSysRdreg_cases i rk n s
  · exact .of_eq h rfl
  · exact .of_eq h rfl

theorem execSysWrreg_quiet (i : Inst) (rk : BitVec 4) (n : BitVec 8) (v : Word) (s : State) :
    Quiet s (execSysWrreg i rk n v s) := by
  unfold execSysWrreg
  dsimp only
  split
  · exact .of_eq rfl rfl
  · obtain h | ⟨-, h⟩ | ⟨_, _, -, -, h⟩ := writeSys_cases s ⟨0, 2, i⟩ n.toNat v <;> exact .of_eq h rfl
  · obtain ⟨_, -, h⟩ | ⟨-, -, h⟩ | ⟨-, -, h⟩ := writeCop_cases s ⟨0, 2, i⟩ i n.toNat v <;> exact .of_eq h rfl
  · exact .of_eq rfl rfl

/-- Every command but a submission and a drain is silent (R410, R411). -/
theorem exec_quiet (i : Instr) (s : State) :
    Quiet s (exec i s) ∨ (∃ c lo hi x, i = .copSubmit c lo hi x) ∨ ∃ c m, i = .copDrain c m :=
  match i with
  | .copSubmit c lo hi x => .inr (.inl ⟨c, lo, hi, x, rfl⟩)
  | .copDrain c m => .inr (.inr ⟨c, m, rfl⟩)
  | .sysNop | .sysReset => .inl (.of_eq rfl rfl)
  | .sysRdreg a rk n => .inl (execSysRdreg_quiet a rk n s)
  | .sysWrreg a rk n v => .inl (execSysWrreg_quiet a rk n v s)
  | .dbiNext a => .inl (.command (dbiAdvance_notif s a))
  | .firrLoad .. | .firrProc .. | .firrClr _ | .fircLoad .. | .fircProc .. | .fircClr _ | .hbrLoad .. | .hbrProc ..
  | .hbrClr _ | .hbcLoad .. | .hbcProc .. | .hbcClr _ | .hilLoad .. | .hilProc .. | .hilClr _ | .dcrLoad ..
  | .dcrProc .. | .dcrClr _ | .ncoLoad .. | .ncoGen .. | .ncoClr _ | .mixLoad _ | .mixProc .. | .fmdLoad _
  | .fmdProc .. | .fmdClr _ | .dbiOpen .. | .dbiClr _ | .dbiResid _ | .copOpen .. | .copDetach _ =>
    .inl (.command rfl)

/-- A submission emits `OVF_ENTERED` exactly when it sets the flag (R308). -/
theorem exec_copSubmit_notif {s t : State} {c : Inst} {lo hi : Word} {x : List Cplx}
    (h : exec (.copSubmit c lo hi x) s = .next t) :
    (t.notif = s.notif ∧ ((s.cop.at c).ovf = false → (t.cop.at c).ovf = false)) ∨
      ((s.cop.at c).ovf = false ∧ (t.cop.at c).ovf = true ∧ t.notif = s.notif ++ [eventWord .ovfEntered c]) := by
  obtain ⟨-, rfl⟩ | ⟨e, -, rfl⟩ := command_cases h
  · by_cases hl : (s.cop.at c).queue.length = (s.cop.at c).capacity.toNat
    · rw [copSubmitStep_full _ hl]
      cases (s.cop.at c).ovf <;> simp
    · rw [copSubmitStep_room _ hl]
      simp
  · exact .inl ⟨rfl, id⟩

/-- A drain's dequeue emits `OVF_CLEARED` exactly when it clears the flag (R311). -/
theorem exec_copDrain_notif {s t : State} {c : Inst} {m : BitVec 22} (h : exec (.copDrain c m) s = .next t) :
    (t.notif = s.notif ∧ (t.cop.at c).ovf = (s.cop.at c).ovf) ∨
      ((s.cop.at c).ovf = true ∧ (t.cop.at c).ovf = false ∧ t.notif = s.notif ++ [eventWord .ovfCleared c]) := by
  obtain ⟨-, rfl⟩ | ⟨e, -, rfl⟩ := command_cases h
  · rw [drainDequeue_eq, Cop.clearEvents]
    cases hcl : (s.cop.at c).clears m.toNat
    · simp
    · simp [((s.cop.at c).clears_iff _).mp hcl]
  · exact .inl ⟨rfl, rfl⟩

/-- Settles O16, by the three sources. -/
theorem notificationsAtTheirSources : Obligations.NotificationsAtTheirSources := by
  refine ⟨fun i s t h => ?_, fun c lo hi x s t h hs ht => ?_, fun c m s t h hs ht => ?_, fun s c => ?_⟩
  · obtain hq | ⟨c, lo, hi, x, rfl⟩ | ⟨c, m, rfl⟩ := exec_quiet i s
    · exact .inl (hq t h)
    · obtain ⟨hn, -⟩ | ⟨hs, ht, hn⟩ := exec_copSubmit_notif h
      · exact .inl hn
      · exact .inr (.inl ⟨c, lo, hi, x, rfl, hs, ht, hn⟩)
    · obtain ⟨hn, -⟩ | ⟨hs, ht, hn⟩ := exec_copDrain_notif h
      · exact .inl hn
      · exact .inr (.inr ⟨c, m, rfl, hs, ht, hn⟩)
  · obtain ⟨-, ho⟩ | ⟨-, -, hn⟩ := exec_copSubmit_notif h
    · cases (ho hs).symm.trans ht
    · simp [hn]
  · obtain ⟨-, ho⟩ | ⟨-, -, hn⟩ := exec_copDrain_notif h
    · cases ht.symm.trans (ho.trans hs)
    · simp [hn]
  · rw [finishDrain_eq rfl]
    exact ⟨_, _, _, rfl, rfl⟩

end Sys2Proof.Machine
end

section
/-! SUPPORT. Whole drains, both phases, and two of them against one (R310, R312, R316, R321). -/

namespace Sys2Proof.Machine

/-! One drain, both phases. -/

/-- The channel after the dequeue of up to `m` blocks, with no drain in progress: its ledger alone changes (R310). -/
def Cop.dequeued (q : Cop) (m : Nat) : Cop :=
  q.withLedger ⟨q.queue.drop m, q.ovf && !q.clears m, q.drops, q.blkerr, none⟩

/-- The state after a drain of up to `m` blocks of channel `c`, both its phases (R312). -/
def State.drain (s : State) (c : Inst) (m : Nat) : State :=
  let q := s.cop.at c
  let bs := q.queue.take m
  let r := (q.dequeued m).drained s.params bs
  { s with
    cop := s.cop.put c r.1
    sys := s.sys.logFaults c (bs.filter (blockFault s.params))
    rsp := s.rsp ++ [responseWord .ok bs.length :: countWord r.2.length :: r.2.flatMap outWords]
    notif := s.notif ++ q.clearEvents c m ++ List.replicate r.2.length (eventWord .outputBlock c) }

theorem Cop.drained_inflight (P : Params) (q : Cop) (fl : Option (List Block)) (bs : List Block) :
    Cop.drained P { q with inflight := fl } bs = ({ (q.drained P bs).1 with inflight := fl }, (q.drained P bs).2) :=
  q.drained_withLedger P { q.ledger with inflight := fl } bs

theorem finishDrain_drainDequeue (s : State) (c : Inst) (m : Nat) :
    finishDrain (drainDequeue s c m) c = s.drain c m := by
  have hd : drainDequeue s c m = { s with
      cop := s.cop.put c { (s.cop.at c).dequeued m with inflight := some ((s.cop.at c).queue.take m) }
      notif := s.notif ++ (s.cop.at c).clearEvents c m } := drainDequeue_eq s c m
  rw [hd, finishDrain_eq (bs := (s.cop.at c).queue.take m) (by rw [Bank.at_put_self]; rfl)]
  simp only [State.processed, State.answer, State.respond, State.putCop, Bank.at_put_self, Bank.put_put,
    Cop.drained_inflight]
  rfl

theorem drains_cons {s : State} {c : Inst} (m : BitVec 22) (ms : List (BitVec 22)) (hc : c.toNat < s.params.nCop)
    (ho : (s.cop.at c).opened = true) : s.drains c (m :: ms) = (s.drain c m.toNat).drains c ms := by
  rw [State.drains, exec_copDrain_legal m hc ho]
  exact congrArg (·.drains c ms) (finishDrain_drainDequeue s c m.toNat)

/-- The blocks of a drain leave all of their channel but `BLKERR` and what reassembly and correction write. -/
theorem Cop.drained_frame (P : Params) (q : Cop) (bs : List Block) :
    (q.drained P bs).1 = { q with
      asm := (q.drained P bs).1.asm
      asmTs := (q.drained P bs).1.asmTs
      fphase := (q.drained P bs).1.fphase
      blkerr := (q.drained P bs).1.blkerr } := by
  rw [Cop.drained, processAll_frame]
  rfl

theorem drain_opened (s : State) (c : Inst) (m : Nat) : ((s.drain c m).cop.at c).opened = (s.cop.at c).opened := by
  rw [State.drain, Bank.at_put_self, Cop.drained_frame]
  rfl

/-! Two drains against one. -/

/-- What decides whether a second dequeue clears the flag (R311). -/
theorem Cop.clears_dequeued_iff (q : Cop) (m n : Nat) : (q.dequeued m).clears n = true ↔
    (q.ovf = true ∧ q.clears m = false) ∧ q.queue.length - m - n < q.recovery.toNat := by
  rw [Cop.clears_iff]
  simp [Cop.dequeued, Cop.withLedger]

/-- The dequeue that clears the flag is the last to do so. -/
theorem Cop.clears_dequeued_of_clears {q : Cop} {m : Nat} (h : q.clears m = true) (n : Nat) :
    (q.dequeued m).clears n = false := by
  rw [Bool.eq_false_iff, Ne, Cop.clears_dequeued_iff, h]
  simp

/-- A dequeue in two goes clears the flag in one of them if it does so in one go (R311). -/
theorem Cop.clears_add (q : Cop) (m n : Nat) : q.clears (m + n) = (q.clears m || (q.dequeued m).clears n) := by
  rw [Bool.eq_iff_iff, Bool.or_eq_true, Cop.clears_dequeued_iff, Cop.clears_iff]
  cases h : q.clears m with
  | true =>
    obtain ⟨ho, hl⟩ := (q.clears_iff m).mp h
    simp only [ho, true_and, true_or, iff_true]
    omega
  | false => simp [Nat.sub_sub]

theorem Cop.dequeued_dequeued (q : Cop) (m n : Nat) : (q.dequeued m).dequeued n = q.dequeued (m + n) := by
  have hqueue : (q.queue.drop m).drop n = q.queue.drop (m + n) := List.drop_drop ..
  have hovf : (q.ovf && !q.clears m && !(q.dequeued m).clears n) = (q.ovf && !q.clears (m + n)) := by
    rw [Cop.clears_add, Bool.not_or, Bool.and_assoc]
  calc (q.dequeued m).dequeued n
    _ = q.withLedger ⟨(q.queue.drop m).drop n, q.ovf && !q.clears m && !(q.dequeued m).clears n, q.drops, q.blkerr,
          none⟩ := rfl
    _ = q.dequeued (m + n) := by rw [hqueue, hovf, Cop.dequeued]

/-- The flag is cleared at most once, so the events of the two goes are those of the one. -/
theorem Cop.clearEvents_add (q : Cop) (c : Inst) (m n : Nat) :
    q.clearEvents c (m + n) = q.clearEvents c m ++ (q.dequeued m).clearEvents c n := by
  unfold Cop.clearEvents
  rw [Cop.clears_add]
  cases h : q.clears m with
  | true => simp [Cop.clears_dequeued_of_clears h]
  | false => simp

theorem Cop.clears_drained (P : Params) (q : Cop) (bs : List Block) (m : Nat) :
    (q.drained P bs).1.clears m = q.clears m := by
  rw [Cop.drained_frame]
  rfl

/-- A dequeue and the processing of blocks in flight do not see one another. -/
theorem Cop.dequeued_drained (P : Params) (q : Cop) (bs : List Block) (m : Nat) :
    (q.drained P bs).1.dequeued m = ((q.dequeued m).drained P bs).1 := by
  rw [Cop.dequeued, Cop.clears_drained, Cop.dequeued, Cop.drained_withLedger]
  rfl

/-- The events of a dequeue are decided by the ledger. -/
theorem Cop.clearEvents_drained (P : Params) (q : Cop) (bs : List Block) (c : Inst) (m : Nat) :
    (q.drained P bs).1.clearEvents c m = q.clearEvents c m := by
  rw [Cop.clearEvents, Cop.clears_drained, Cop.clearEvents]

theorem Cop.queue_drained (P : Params) (q : Cop) (bs : List Block) : (q.drained P bs).1.queue = q.queue := by
  rw [Cop.drained_frame]

theorem Cop.drained_dequeued_snd (P : Params) (q : Cop) (bs : List Block) (m : Nat) :
    ((q.dequeued m).drained P bs).2 = (q.drained P bs).2 := by
  rw [Cop.dequeued, Cop.drained_withLedger]

/-- What the first `m` blocks of a drain of `m + n`, and then the others, make of the channel after its dequeue. -/
def State.cutDrain (s : State) (c : Inst) (m n : Nat) : (Cop × List OutBlock) × (Cop × List OutBlock) :=
  let r := ((s.cop.at c).dequeued (m + n)).drained s.params ((s.cop.at c).queue.take m)
  (r, r.1.drained s.params (((s.cop.at c).queue.drop m).take n))

/-- A drain of `m + n` blocks, cut after the first `m`. -/
theorem drain_add (s : State) (c : Inst) (m n : Nat) :
    s.drain c (m + n) =
      let q := s.cop.at c
      let bs := q.queue.take m
      let bs' := (q.queue.drop m).take n
      let r := (s.cutDrain c m n).1
      let r' := (s.cutDrain c m n).2
      { s with
        cop := s.cop.put c r'.1
        sys := (s.sys.logFaults c (bs.filter (blockFault s.params))).logFaults c (bs'.filter (blockFault s.params))
        rsp := s.rsp ++ [responseWord .ok (bs.length + bs'.length) :: countWord (r.2.length + r'.2.length) ::
          (r.2.flatMap outWords ++ r'.2.flatMap outWords)]
        notif := s.notif ++ (q.clearEvents c m ++ (q.dequeued m).clearEvents c n) ++
          (List.replicate r.2.length (eventWord .outputBlock c) ++
            List.replicate r'.2.length (eventWord .outputBlock c)) } := by
  simp only [State.drain, State.cutDrain, List.take_add, Cop.drained_append, List.filter_append, Sys.logFaults_append,
    List.length_append, List.flatMap_append, Cop.clearEvents_add, List.replicate_add]

/-- Two drains, of `m` and of `n` blocks. -/
theorem drain_drain (s : State) (c : Inst) (m n : Nat) :
    (s.drain c m).drain c n =
      let q := s.cop.at c
      let bs := q.queue.take m
      let bs' := (q.queue.drop m).take n
      let r := (s.cutDrain c m n).1
      let r' := (s.cutDrain c m n).2
      { s with
        cop := s.cop.put c r'.1
        sys := (s.sys.logFaults c (bs.filter (blockFault s.params))).logFaults c (bs'.filter (blockFault s.params))
        rsp := s.rsp ++ [responseWord .ok bs.length :: countWord r.2.length :: r.2.flatMap outWords,
          responseWord .ok bs'.length :: countWord r'.2.length :: r'.2.flatMap outWords]
        notif := s.notif ++ q.clearEvents c m ++ List.replicate r.2.length (eventWord .outputBlock c) ++
          (q.dequeued m).clearEvents c n ++ List.replicate r'.2.length (eventWord .outputBlock c) } := by
  have hqueue : (((s.cop.at c).dequeued m).drained s.params ((s.cop.at c).queue.take m)).1.queue =
      (s.cop.at c).queue.drop m := Cop.queue_drained ..
  simp only [State.drain, State.cutDrain, Bank.at_put_self, Bank.put_put, hqueue, Cop.dequeued_drained,
    Cop.dequeued_dequeued, Cop.clearEvents_drained, Cop.drained_dequeued_snd, List.append_assoc, List.cons_append,
    List.nil_append]

/-- Settles O60: the dequeue of the second drain does not see what the first one processed (`Cop.dequeued_drained`), so
both ways process the same blocks in the same channel. -/
theorem drainsRunOn : Obligations.DrainsRunOn := by
  intro s c m₁ m₂ m hc ho hm
  have two : s.drains c [m₁, m₂] = (s.drain c m₁.toNat).drain c m₂.toNat := by
    rw [drains_cons m₁ _ hc ho]
    exact drains_cons m₂ [] hc ((drain_opened ..).trans ho)
  have one : s.drains c [m] = s.drain c (m₁.toNat + m₂.toNat) := by
    rw [← hm]
    exact drains_cons m [] hc ho
  rw [two, one, drain_drain, drain_add]
  refine ⟨_, _, _, _, _, _, rfl, rfl, rfl, rfl, ?_⟩
  dsimp only
  rw [← List.append_assoc, ← List.append_assoc]
  exact (perm_append_append_comm ..).append_right _

end Sys2Proof.Machine
end

section
/-! SUPPORT. The accounting of a queue that overflows (R326): submissions with room and without, then drains. -/

namespace Sys2Proof.Machine

/-! Submissions one after another. -/

/-- The state after these blocks are submitted to channel `c` (R303). -/
def State.submits (s : State) (c : Inst) (bs : List Block) : State := bs.foldl (fun t b => copSubmitStep t c b) s

theorem copSubmitStep_opened (s : State) (c : Inst) (b : Block) :
    ((copSubmitStep s c b).cop.at c).opened = (s.cop.at c).opened := by
  by_cases h : (s.cop.at c).queue.length = (s.cop.at c).capacity.toNat
  · rw [copSubmitStep_full b h, Bank.at_put_self]
  · rw [copSubmitStep_room b h, Bank.at_put_self]

/-- The block that a submission's operands name (R303). -/
def blockOf (b : Word × Word × List Cplx) : Block := ⟨b.2.1 ++ b.1, b.2.2⟩

/-- Legal submissions are their steps. -/
theorem run_copSubmit {s : State} {c : Inst} {subs : List (Word × Word × List Cplx)} (hc : c.toNat < s.params.nCop)
    (ho : (s.cop.at c).opened = true) (hx : ∀ b ∈ subs, b.2.2.length ≤ s.params.maxBlock) :
    s.run (subs.map fun b => .copSubmit c b.1 b.2.1 b.2.2) = s.submits c (subs.map blockOf) := by
  induction subs generalizing s with
  | nil => rfl
  | cons b subs ih =>
    rw [List.forall_mem_cons] at hx
    have hp := (copSubmitStep_goesOn s c (blockOf b)).params
    rw [List.map_cons, State.run, exec_copSubmit_legal hc ho hx.1]
    exact ih (hp ▸ hc) ((copSubmitStep_opened ..).trans ho) (hp ▸ hx.2)

/-- With room for all of them the blocks are appended (R306). -/
theorem submits_room {s : State} {c : Inst} {bs : List Block}
    (h : (s.cop.at c).queue.length + bs.length ≤ (s.cop.at c).capacity.toNat) :
    s.submits c bs = { s with
      cop := s.cop.put c { s.cop.at c with queue := (s.cop.at c).queue ++ bs }
      rsp := s.rsp ++ List.replicate bs.length [0x00000100] } := by
  induction bs generalizing s with
  | nil =>
    rw [List.append_nil, List.length_nil, List.replicate_zero, List.append_nil]
    exact (putCop_at s c).symm
  | cons b bs ih =>
    rw [List.length_cons] at h
    rw [State.submits, List.foldl_cons, copSubmitStep_room b (by omega)]
    refine (ih ?_).trans ?_
    · simp only [Bank.at_put_self, List.length_append, List.length_singleton]
      omega
    · simp [Bank.put_put, List.replicate_succ]

/-- At capacity and overflowing, the blocks are counted (R307). -/
theorem submits_overflowing {s : State} {c : Inst} (bs : List Block)
    (h : (s.cop.at c).queue.length = (s.cop.at c).capacity.toNat) (ho : (s.cop.at c).ovf = true) :
    s.submits c bs = { s with
      cop := s.cop.put c { s.cop.at c with drops := satAdd (s.cop.at c).drops bs.length, ovf := true }
      rsp := s.rsp ++ List.replicate bs.length [0x00000000] } := by
  induction bs generalizing s with
  | nil =>
    rw [← ho, List.length_nil, satAdd_zero, List.replicate_zero, List.append_nil]
    exact (putCop_at s c).symm
  | cons b bs ih =>
    rw [State.submits, List.foldl_cons, copSubmitStep_full b h, ho]
    refine (ih ?_ ?_).trans ?_
    · rw [Bank.at_put_self]
      exact h
    · rw [Bank.at_put_self]
    · simp [Bank.put_put, List.replicate_succ, satAdd_satAdd, Nat.add_comm]

/-- At capacity the first block sets the flag, with its event, and every block is counted (R307, R308). -/
theorem submits_full {s : State} {c : Inst} (b : Block) (bs : List Block)
    (h : (s.cop.at c).queue.length = (s.cop.at c).capacity.toNat) (ho : (s.cop.at c).ovf = false) :
    s.submits c (b :: bs) = { s with
      cop := s.cop.put c { s.cop.at c with drops := satAdd (s.cop.at c).drops (1 + bs.length), ovf := true }
      notif := s.notif ++ [eventWord .ovfEntered c]
      rsp := s.rsp ++ List.replicate (1 + bs.length) [0x00000000] } := by
  rw [State.submits, List.foldl_cons, copSubmitStep_full b h]
  refine (submits_overflowing bs ?_ ?_).trans ?_
  · rw [Bank.at_put_self]
    exact h
  · rw [Bank.at_put_self]
  · simp [Bank.put_put, List.replicate_add, satAdd_satAdd, ho]

/-- More blocks than an empty queue has room for: it fills up, the others are counted, with one event (R326). -/
theorem submits_overflow {s : State} {c : Inst} {bs : List Block} {cap : Nat} (hq : (s.cop.at c).queue = [])
    (ho : (s.cop.at c).ovf = false) (hcap : (s.cop.at c).capacity.toNat = cap) (hn : cap < bs.length) :
    s.submits c bs = { s with
      cop := s.cop.put c { s.cop.at c with
        queue := bs.take cap, drops := satAdd (s.cop.at c).drops (bs.length - cap), ovf := true }
      notif := s.notif ++ [eventWord .ovfEntered c]
      rsp := s.rsp ++ List.replicate cap [0x00000100] ++ List.replicate (bs.length - cap) [0x00000000] } := by
  have htake : (bs.take cap).length = cap := List.length_take_of_le hn.le
  have hsplit : s.submits c bs = (s.submits c (bs.take cap)).submits c (bs.drop cap) := by
    rw [State.submits, State.submits, State.submits, ← List.foldl_append, List.take_append_drop]
  have hroom := submits_room (s := s) (c := c) (bs := bs.take cap)
    (by rw [hq, htake, hcap, List.length_nil, Nat.zero_add])
  obtain ⟨b, ds, hd⟩ : ∃ b ds, bs.drop cap = b :: ds :=
    List.exists_cons_of_ne_nil (mt List.drop_eq_nil_iff.mp (Nat.not_le.mpr hn))
  have hds : bs.length - cap = 1 + ds.length := by
    rw [← List.length_drop, hd, List.length_cons, Nat.add_comm]
  rw [hsplit, hroom, htake, hq, List.nil_append, hd, hds]
  refine (submits_full b ds ?_ ?_).trans ?_
  · rw [Bank.at_put_self]
    exact htake.trans hcap.symm
  · rw [Bank.at_put_self]
    exact ho
  · simp only [Bank.put_put, Bank.at_put_self]

/-! Drains one after another. -/

theorem eventWord_outputBlock_ne (c : Inst) : eventWord .outputBlock c ≠ eventWord .ovfCleared c := by
  revert c
  decide

/-- A drain notifies `OVF_CLEARED` once or not at all, by its dequeue (R311). -/
theorem drain_notif (s : State) (c : Inst) (m : Nat) :
    ∃ ws, (s.drain c m).notif = s.notif ++ ws ∧
      ws.count (eventWord .ovfCleared c) = if (s.cop.at c).clears m then 1 else 0 := by
  refine ⟨_, List.append_assoc .., ?_⟩
  rw [List.count_append, List.count_replicate, if_neg (by simpa using eventWord_outputBlock_ne c), Cop.clearEvents]
  split <;> simp

theorem Cop.recovery_le_of_not_clears {q : Cop} {m : Nat} (h : q.clears m = false) (ho : q.ovf = true) :
    q.recovery.toNat ≤ q.queue.length - m :=
  Nat.not_lt.mp fun hl => Bool.false_ne_true (h.symm.trans ((q.clears_iff m).mpr ⟨ho, hl⟩))

/-- What a drain leaves of the channel's queue and its flag. -/
theorem drain_queue (s : State) (c : Inst) (m : Nat) :
    ((s.drain c m).cop.at c).queue = (s.cop.at c).queue.drop m ∧
    ((s.drain c m).cop.at c).ovf = ((s.cop.at c).ovf && !(s.cop.at c).clears m) ∧
    ((s.drain c m).cop.at c).recovery = (s.cop.at c).recovery := by
  rw [State.drain, Bank.at_put_self, Cop.drained_frame]
  exact ⟨rfl, rfl, rfl⟩

/-- However a channel is drained, `OVF_CLEARED` is notified once if its flag is set and its occupancy comes below
`RECOVERY`, and else not (R311). -/
theorem drains_cleared {s : State} {c : Inst} (ms : List (BitVec 22)) (hc : c.toNat < s.params.nCop)
    (ho : (s.cop.at c).opened = true)
    (hrec : (s.cop.at c).ovf = true → (s.cop.at c).recovery.toNat ≤ (s.cop.at c).queue.length) :
    ∃ ws, (s.drains c ms).notif = s.notif ++ ws ∧ ws.count (eventWord .ovfCleared c) =
      if (s.cop.at c).ovf = true ∧ (s.cop.at c).queue.length - (ms.map BitVec.toNat).sum < (s.cop.at c).recovery.toNat
      then 1 else 0 := by
  induction ms generalizing s with
  | nil => exact ⟨[], (List.append_nil _).symm, (if_neg fun h => Nat.not_lt.mpr (hrec h.1) h.2).symm⟩
  | cons m ms ih =>
    obtain ⟨hqueue, hovf, hrecovery⟩ := drain_queue s c m.toNat
    obtain ⟨us, husnotif, huscount⟩ := drain_notif s c m.toNat
    obtain ⟨ws, hnotif, hcount⟩ := ih (s := s.drain c m.toNat) hc ((drain_opened ..).trans ho) (by
      rw [hovf, hqueue, hrecovery, List.length_drop, Bool.and_eq_true, Bool.not_eq_true']
      exact fun ⟨hv, hn⟩ => Cop.recovery_le_of_not_clears hn hv)
    refine ⟨us ++ ws, ?_, ?_⟩
    · rw [drains_cons m ms hc ho, hnotif, husnotif, List.append_assoc]
    · rw [List.count_append, huscount, hcount, hqueue, hovf, hrecovery, List.length_drop, List.map_cons, List.sum_cons,
        Nat.sub_sub]
      cases h : (s.cop.at c).clears m.toNat with
      | true =>
        obtain ⟨hv, hl⟩ := ((s.cop.at c).clears_iff m.toNat).mp h
        rw [if_pos rfl, if_neg (by simp), if_pos ⟨hv, by omega⟩]
      | false => simp

/-- Settles O58: the state after the submissions is one equation (`submits_overflow`), and from it the drains clear the
flag at most once (`drains_cleared`). -/
theorem backpressureAccounting : Obligations.BackpressureAccounting := by
  intro s c subs ms hc ho hq hv hd h1 hr hx hn h32 cap t d
  have ht := (run_copSubmit hc ho hx).trans (submits_overflow hq hv (cap := cap) rfl (by rwa [List.length_map]))
  change t = _ at ht
  rw [List.length_map] at ht
  have hat : t.cop.at c = { s.cop.at c with
      queue := (subs.map blockOf).take cap, drops := satAdd (s.cop.at c).drops (subs.length - cap), ovf := true } := by
    rw [ht, Bank.at_put_self]
  have hlen : (t.cop.at c).queue.length = cap := by
    rw [hat]
    exact List.length_take_of_le (by rw [List.length_map]; exact hn.le)
  obtain ⟨ws, hnotif, hcount⟩ := drains_cleared (s := t) (c := c) ms (by rw [ht]; exact hc) (by rw [hat]; exact ho)
    (fun _ => by rw [hlen, hat]; exact hr)
  refine ⟨by rw [ht]; rfl, ?_, ?_, by rw [hat], by rw [ht]; rfl, ?_⟩
  · rw [hat, List.map_take]
    rfl
  · rw [hat, toNat_satAdd, hd, BitVec.toNat_ofNat]
    omega
  · rw [hnotif, List.drop_left]
    rw [hlen, hat] at hcount
    refine hcount.trans ?_
    simp

end Sys2Proof.Machine
end

section
/-! SUPPORT. The processing of one block (R313): the correction sample by sample (R316), then reassembly: the samples,
the output blocks and their tags (R321, R322). -/

namespace Sys2Proof.Machine

/-! Correction and gain. -/

theorem length_stageSamples (P : Params) (q : Cop) (b : Block) : (stageSamples P q b).length = b.data.length := by
  rw [stageSamples, applyGain, List.length_map, correct]
  split
  · rfl
  · exact length_mixRun ..

theorem getElem?_correct (P : Params) (q : Cop) {x : List Cplx} {n : Nat} {v : Cplx} (h : x[n]? = some v) :
    (correct P q x)[n]? =
      some (if q.finc = 0#32 then v else cmix v (ncoAt P (q.fphase + BitVec.ofNat 32 n * q.finc))) := by
  rw [correct]
  split
  · exact h
  · exact getElem?_mixRun P q.fphase q.finc x n v h

theorem getElem?_applyGain (g : F32) {x : List Cplx} {n : Nat} {w : Cplx} (h : x[n]? = some w) :
    (applyGain g x)[n]? = some (fmul w.1 g, fmul w.2 g) := by
  rw [applyGain, List.getElem?_map, h, Option.map_some]

/-! Reassembly. -/

/-- Output blocks and buffer hold what was buffered, then the samples (R321). -/
theorem assemble_samples (q : Cop) (ts : Stamp) (x : List Cplx) :
    (assemble q ts x).2.flatMap OutBlock.data ++ (assemble q ts x).1.asm = q.asm ++ x := by
  induction x generalizing q with
  | nil => exact (List.append_nil _).symm
  | cons v vs ih =>
    rw [assemble_cons]
    split
    · rw [List.flatMap_cons, List.append_assoc, ih]
      simp [Cop.buffer]
    · rw [ih]
      simp [Cop.buffer]

/-- Output blocks are full (R321). -/
theorem assemble_full (q : Cop) (ts : Stamp) (x : List Cplx) :
    ∀ o ∈ (assemble q ts x).2, o.data.length = q.outblk.toNat := by
  induction x generalizing q with
  | nil => simp [assemble]
  | cons v vs ih =>
    rw [assemble_cons]
    split
    next hl => exact List.forall_mem_cons.mpr ⟨hl, ih (q.buffer ts [])⟩
    next => exact ih (q.buffer ts _)

/-- The tag of the output block that takes the next sample (R322). -/
def Cop.openTag (q : Cop) (ts : Stamp) : Stamp := if q.asm = [] then ts else q.asmTs

theorem openTag_buffer_nil (q : Cop) (ts : Stamp) : (q.buffer ts []).openTag ts = ts := if_pos rfl

theorem openTag_buffer_cons (q : Cop) (ts : Stamp) (v : Cplx) (asm : List Cplx) :
    (q.buffer ts (asm ++ [v])).openTag ts = q.openTag ts :=
  if_neg (List.append_ne_nil_of_right_ne_nil _ (List.cons_ne_nil _ _))

/-- A choice of the open tag, its definition written out. -/
theorem ite_openTag (p : Prop) [Decidable p] (q : Cop) (ts : Stamp) :
    (if p then q.openTag ts else ts) = if p ∧ q.asm ≠ [] then q.asmTs else ts := by
  rw [ite_and, ite_not, Cop.openTag]

/-- The first output block carries the open tag, every later one the block's own (R322). -/
theorem assemble_tags (q : Cop) (ts : Stamp) (x : List Cplx) {k : Nat} {o : OutBlock}
    (h : (assemble q ts x).2[k]? = some o) : o.ts = if k = 0 then q.openTag ts else ts := by
  induction x generalizing q k with
  | nil => simp [assemble] at h
  | cons v vs ih =>
    rw [assemble_cons] at h
    split at h
    · cases k with
      | zero =>
        obtain rfl := Option.some.inj h
        rfl
      | succ k =>
        rw [ih (q.buffer ts []) h, openTag_buffer_nil, ite_self, if_neg k.succ_ne_zero]
    · rw [ih (q.buffer ts _) h, openTag_buffer_cons]

/-- What stays in the buffer carries the open tag until an output block is completed, then the block's own (R322). -/
theorem assemble_asmTs (q : Cop) (ts : Stamp) (x : List Cplx) (h : (assemble q ts x).1.asm ≠ []) :
    (assemble q ts x).1.asmTs = if (assemble q ts x).2 = [] then q.openTag ts else ts := by
  induction x generalizing q with
  | nil => exact (if_neg h).symm
  | cons v vs ih =>
    revert h
    rw [assemble_cons]
    split
    · intro h
      rw [ih (q.buffer ts []) h, openTag_buffer_nil, ite_self]
      exact (if_neg (List.cons_ne_nil _ _)).symm
    · intro h
      rw [ih (q.buffer ts _) h, openTag_buffer_cons]

/-- Settles O55: the elements of the correction, and the laws of reassembly. -/
theorem processingLosesNoSample : Obligations.ProcessingLosesNoSample := by
  refine ⟨fun P q b => ⟨?_, length_stageSamples P q b, fun n v h => ?_⟩, fun P q b hfill => ?_⟩
  · rw [processBlock_frame]
    rfl
  · exact getElem?_applyGain q.gain (getElem?_correct P q h)
  · refine ⟨assemble_samples .., assemble_full _ _ _, assemble_length_lt _ _ hfill, fun k o h => ?_, fun h => ?_, ?_⟩
    · exact (assemble_tags _ _ _ h).trans (ite_openTag (k = 0) ..)
    · exact (assemble_asmTs _ _ _ h).trans (ite_openTag ((processBlock P q b).2 = []) ..)
    · rw [processBlock_frame]

end Sys2Proof.Machine
end

section
/-! SUPPORT. `DBI.NEXT` on an iterator with a fragment left (R360 to R362), its two modes as one operation on what the
iterator carries from fragment to fragment; and runs of it over the fragments of a buffer. -/

namespace Sys2Proof.Machine

/-! One fragment. -/

theorem exec_dbiNext_fragment {s : State} {i : Inst} (hi : i.toNat < s.params.nDbi) (ho : (s.dbi.at i).isOpen = true)
    (hp : (s.dbi.at i).pos < (s.dbi.at i).nfrag) : exec (.dbiNext i) s = .next (dbiAdvance s i) :=
  command_of_present hi (by simp [ho, hp])

/-- The response to a fragment's outputs under a timestamp (R360, R361). -/
def fragmentResponse (P : Params) (ts : Stamp) (y : List Cplx) : List Word :=
  responseWord .ok P.fragSize :: stampLo ts :: stampHi ts :: interleave y

/-- A fragment in real-sampled mode: `POS`, the iterator's residuals and, with `DCEN`, the DC estimate (R362). -/
theorem dbiAdvance_real {s : State} {i : Inst} {u : Dbi} {d : Dcr} (hu : s.dbi.at i = u) (hd : s.dcr.at i = d)
    (h : u.mode = true) :
    dbiAdvance s i =
      let r := realPath s.params (s.hil.at i).coef u.dcen d.alpha d.avg u.residI u.residQ
        (fragmentPairs s.params u.packed u.raw u.pos)
      { s with
        dbi := s.dbi.put i { u with pos := u.pos + 1, residI := r.2.1, residQ := r.2.2.1 }
        dcr := if u.dcen then s.dcr.put i { d with avg := r.2.2.2 } else s.dcr
        rsp := s.rsp ++ [fragmentResponse s.params u.ts r.1] } := by
  subst hu hd
  simp only [dbiAdvance, h, if_true]
  cases (s.dbi.at i).dcen <;> rfl

/-- What an iterator hands on from fragment to fragment, and from buffer to buffer (R362, R368). -/
structure Carry where
  residI : List F32
  residQ : List F32
  avg : F32

/-- The outputs of a fragment `x` and what is handed on, with the partner units of `s` (R361, R362). -/
def fragmentPath (s : State) (i : Inst) (mode dcen : Bool) (k : Carry) (x : List Cplx) : List Cplx × Carry :=
  if mode then
    let r := realPath s.params (s.hil.at i).coef dcen (s.dcr.at i).alpha k.avg k.residI k.residQ x
    (r.1, ⟨r.2.1, r.2.2.1, r.2.2.2⟩)
  else (x, k)

/-- The state `s` with the iterator `u` at `pos` in slot `i`, `k` handed to it, and the responses `rsp`. -/
def State.carrying (s : State) (i : Inst) (u : Dbi) (k : Carry) (pos : Nat) (rsp : List (List Word)) : State :=
  { s with
    dbi := s.dbi.put i { u with pos := pos, residI := k.residI, residQ := k.residQ }
    dcr := s.dcr.put i { s.dcr.at i with avg := k.avg }
    rsp := rsp }

/-- Every state carries what its iterator and its DC estimate hold. -/
theorem State.carrying_self (s : State) (i : Inst) :
    s.carrying i (s.dbi.at i) ⟨(s.dbi.at i).residI, (s.dbi.at i).residQ, (s.dcr.at i).avg⟩ (s.dbi.at i).pos s.rsp =
      s := by
  change { s with dbi := s.dbi.put i (s.dbi.at i), dcr := s.dcr.put i (s.dcr.at i) } = s
  rw [Bank.put_at, Bank.put_at]

section
variable {s : State} {i : Inst} {u : Dbi} {k : Carry} {pos : Nat} {rsp : List (List Word)}

@[simp] theorem State.carrying_rsp : (s.carrying i u k pos rsp).rsp = rsp := rfl

@[simp] theorem State.carrying_dbi : (s.carrying i u k pos rsp).dbi.at i =
    { u with pos := pos, residI := k.residI, residQ := k.residQ } := Bank.at_put_self ..

/-- A fragment moves the carried value along its path. -/
theorem dbiAdvance_carrying :
    dbiAdvance (s.carrying i u k pos rsp) i =
      let r := fragmentPath s i u.mode u.dcen k (fragmentPairs s.params u.packed u.raw pos)
      s.carrying i u r.2 (pos + 1) (rsp ++ [fragmentResponse s.params u.ts r.1]) := by
  cases hm : u.mode with
  | false =>
    rw [dbiAdvance_native (by rw [State.carrying_dbi, hm])]
    simp [State.carrying, fragmentPath, State.putDbi, State.answer, State.respond, fragmentResponse, Bank.put_put]
  | true =>
    rw [dbiAdvance_real State.carrying_dbi (Bank.at_put_self ..) hm]
    cases hd : u.dcen <;> simp [State.carrying, fragmentPath, hm, hd, Bank.put_put, realPath, dcStage]

/-! The fragments of a buffer. -/

/-- The outputs of fragments one after another, and what is handed on after them. -/
def fragmentPaths (s : State) (i : Inst) (mode dcen : Bool) (k : Carry) : List (List Cplx) → List (List Cplx) × Carry
  | [] => ([], k)
  | x :: xs =>
    let r := fragmentPath s i mode dcen k x
    let r' := fragmentPaths s i mode dcen r.2 xs
    (r.1 :: r'.1, r'.2)

theorem fragmentPaths_append (mode dcen : Bool) (xs ys : List (List Cplx)) :
    fragmentPaths s i mode dcen k (xs ++ ys) =
      let r := fragmentPaths s i mode dcen k xs
      let r' := fragmentPaths s i mode dcen r.2 ys
      (r.1 ++ r'.1, r'.2) := by
  induction xs generalizing k with
  | nil => rfl
  | cons x xs ih => simp [fragmentPaths, ih]

/-- `n` commands `DBI.NEXT` read the next `n` fragments. -/
theorem run_dbiNext {n : Nat} (hi : i.toNat < s.params.nDbi) (ho : u.isOpen = true) (hn : pos + n ≤ u.nfrag) :
    (s.carrying i u k pos rsp).run (List.replicate n (.dbiNext i)) =
      let r := fragmentPaths s i u.mode u.dcen k ((List.range' pos n).map (fragmentPairs s.params u.packed u.raw))
      s.carrying i u r.2 (pos + n) (rsp ++ r.1.map (fragmentResponse s.params u.ts)) := by
  induction n generalizing k pos rsp with
  | zero => simp [State.run, fragmentPaths]
  | succ n ih =>
    have hlt : pos < u.nfrag := by omega
    have hexec : exec (.dbiNext i) (s.carrying i u k pos rsp) = .next (dbiAdvance (s.carrying i u k pos rsp) i) :=
      exec_dbiNext_fragment hi (by rw [State.carrying_dbi, ho]) (by rwa [State.carrying_dbi])
    rw [List.replicate_succ, State.run, hexec, dbiAdvance_carrying]
    dsimp only
    rw [ih (by omega), List.range'_succ, List.map_cons, fragmentPaths]
    simp [Nat.add_assoc, Nat.add_comm 1 n]

end

/-- The bytes of a fragment (R351). -/
def fragmentBytes (P : Params) (packed : Bool) : Nat := P.fragSize * pairStride packed

/-- The fragments of the buffer of a `DBI.OPEN` (R351, R353). -/
def openedFragments (P : Params) (n : BitVec 22) (flags : Word) (raw : List Word) : List (List Cplx) :=
  (List.range (n.toNat / fragmentBytes P (flagsPacked flags))).map
    (fragmentPairs P (flagsPacked flags) ((rawBytes raw).take n.toNat))

/-- A fragment of the first part of a joined buffer. -/
theorem fragmentPairs_append_left {P : Params} {packed : Bool} {raw : List Byte} {f : Nat}
    (h : (f + 1) * fragmentBytes P packed ≤ raw.length) (raw' : List Byte) :
    fragmentPairs P packed (raw ++ raw') f = fragmentPairs P packed raw f := by
  rw [fragmentBytes, Nat.succ_mul] at h
  rw [fragmentPairs, fragmentPairs, List.drop_append_of_le_length (by omega),
    List.take_append_of_le_length (by rw [List.length_drop]; omega)]

/-- A fragment of the second part of a joined buffer, the first being `m` fragments. -/
theorem fragmentPairs_append_right {P : Params} {packed : Bool} {raw : List Byte} {m : Nat}
    (h : raw.length = m * fragmentBytes P packed) (raw' : List Byte) (f : Nat) :
    fragmentPairs P packed (raw ++ raw') (m + f) = fragmentPairs P packed raw' f := by
  rw [fragmentPairs, fragmentPairs, Nat.add_mul, ← fragmentBytes, ← h, List.drop_length_add_append]

/-- The fragments of a joined buffer, cut between fragments, are those of its parts. -/
theorem openedFragments_joined {P : Params} {l₁ l₂ l₃ : BitVec 22} {flags : Word} {w₁ w₂ w₃ : List Word}
    (hlen : l₃.toNat = l₁.toNat + l₂.toNat)
    (hraw : (rawBytes w₃).take l₃.toNat = (rawBytes w₁).take l₁.toNat ++ (rawBytes w₂).take l₂.toNat)
    (hl₁ : ((rawBytes w₁).take l₁.toNat).length = l₁.toNat) (hdvd : fragmentBytes P (flagsPacked flags) ∣ l₁.toNat) :
    openedFragments P l₃ flags w₃ = openedFragments P l₁ flags w₁ ++ openedFragments P l₂ flags w₂ := by
  have hwhole := hl₁.trans (Nat.div_mul_cancel hdvd).symm
  rw [openedFragments, hraw, hlen, Nat.add_div_of_dvd_right hdvd, List.range_add, List.map_append, List.map_map]
  congr 1
  · refine List.map_congr_left fun f hf => fragmentPairs_append_left ?_ _
    exact (Nat.mul_le_mul_right _ (List.mem_range.mp hf)).trans_eq hwhole.symm
  · exact List.map_congr_left fun f _ => fragmentPairs_append_right hwhole _ f

end Sys2Proof.Machine
end

section
/-! SUPPORT. Two buffers read one after the other, and the joined buffer (R368). -/

namespace Sys2Proof.Machine

theorem raise_rsp_ne_ok {s : State} {e : Status} {id : CmdId} (he : e ≠ .ok) :
    (s.raise e id).rsp ≠ s.rsp ++ [[0x00000000]] := by
  intro h
  have hcode : 0 = e.code := (raise_rsp_iff s e id (by decide)).mp h
  exact he (Status.code_injective hcode.symm)

/-- A `DBI.OPEN` answered `OK`: its operands are good, and the iterator is open on the payload (R353). -/
theorem exec_dbiOpen_answered {s t : State} {i : Inst} {n : BitVec 22} {flags lo hi : Word} {ri rq : List F32}
    {raw : List Word} (h : exec (.dbiOpen i n flags lo hi ri rq raw) s = .next t)
    (hr : t.rsp = s.rsp ++ [[0x00000000]]) :
    dbiCountOk n flags ri rq raw = true ∧ ¬DbiBadArgument s i n flags ∧
      t = (s.putDbi i (dbiOpened s.params n flags lo hi ri rq raw)).answer 0 [] := by
  by_cases hgood : dbiCountOk n flags ri rq raw = true ∧ ¬DbiBadArgument s i n flags ∧ TailZero n raw
  · obtain ⟨hcount, harg, htail⟩ := hgood
    rw [exec_dbiOpen_goodArgument hcount harg htail] at h
    split at h
    · obtain rfl := Host.Outcome.next.inj h
      exact absurd hr (raise_rsp_ne_ok (by decide))
    · exact ⟨hcount, harg, (Host.Outcome.next.inj h).symm⟩
  · obtain rfl := Host.Outcome.next.inj ((exec_dbiOpen_badArgument hgood).symm.trans h)
    exact absurd hr (raise_rsp_ne_ok (by decide))

/-- The buffer of a good `DBI.OPEN` has its announced length, whole fragments (R351, R353). -/
theorem take_rawBytes_whole {s : State} {i : Inst} {n : BitVec 22} {flags : Word} {ri rq : List F32}
    {raw : List Word} (hcount : dbiCountOk n flags ri rq raw = true) (hgood : ¬DbiBadArgument s i n flags) :
    ((rawBytes raw).take n.toNat).length = n.toNat ∧ fragmentBytes s.params (flagsPacked flags) ∣ n.toNat := by
  obtain ⟨-, -, hraw⟩ := dbiCountOk_iff.mp hcount
  simp only [DbiBadArgument, not_or, not_not] at hgood
  obtain ⟨-, -, -, -, -, -, -, hmod, -⟩ := hgood
  refine ⟨?_, Nat.dvd_of_mod_eq_zero hmod⟩
  rw [take_rawBytes hraw, List.length_map, List.length_range]

/-- A buffer opened and read to its end: the iterator after it, and the responses. -/
theorem run_opened {s t : State} {i : Inst} {v : Dbi} {k : Carry} {pos : Nat} {rsp : List (List Word)}
    {n : BitVec 22} {flags lo hi : Word} {ri rq : List F32} {raw : List Word}
    (h : exec (.dbiOpen i n flags lo hi ri rq raw) (s.carrying i v k pos rsp) = .next t)
    (hr : t.rsp = rsp ++ [[0x00000000]]) :
    let u := dbiOpened s.params n flags lo hi ri rq raw
    let r := fragmentPaths s i (flagsMode flags) (flagsDcen flags) ⟨ri, rq, k.avg⟩
      (openedFragments s.params n flags raw)
    (((rawBytes raw).take n.toNat).length = n.toNat ∧ fragmentBytes s.params (flagsPacked flags) ∣ n.toNat) ∧
      t.run (List.replicate (t.dbi.at i).nfrag (.dbiNext i)) =
        s.carrying i u r.2 u.nfrag (t.rsp ++ r.1.map (fragmentResponse s.params (stampOf lo hi))) := by
  obtain ⟨hcount, hgood, ht⟩ := exec_dbiOpen_answered h hr
  refine ⟨take_rawBytes_whole hcount hgood, ?_⟩
  have hdbi : i.toNat < s.params.nDbi := by
    by_contra hn
    exact hgood (.inl (Nat.le_of_not_lt hn))
  have hopen : t = s.carrying i (dbiOpened s.params n flags lo hi ri rq raw) ⟨ri, rq, k.avg⟩ 0 t.rsp := by
    rw [hr, ht]
    simp [State.carrying, State.putDbi, State.answer, State.respond, Bank.put_put, dbiOpened, responseWord, Status.code]
  have hnfrag : (t.dbi.at i).nfrag = (dbiOpened s.params n flags lo hi ri rq raw).nfrag := by
    rw [hopen, State.carrying_dbi]
  rw [hnfrag, hopen, run_dbiNext hdbi rfl (Nat.zero_add _).le, openedFragments, List.range_eq_range', Nat.zero_add]
  rfl

/-- The words that fragments answer after their response words. -/
theorem outputs_carrying (s t : State) (i : Inst) (u : Dbi) (k : Carry) (pos : Nat) (rs : List (List Word)) :
    outputs t (s.carrying i u k pos (t.rsp ++ rs)) = rs.flatMap List.tail := by
  rw [outputs, State.carrying_rsp, List.drop_left]

/-- Settles O50: the fragments of the joined buffer are those of its parts, and what is handed on runs through them. -/
theorem seamContinuity : Obligations.SeamContinuity := by
  intro s s₁ a s₂ b s₃ c i l₁ l₂ l₃ flags lo hi ri rq w₁ w₂ w₃ hlen hraw h₁ hr₁ ha h₂ hr₂ hb h₃ hr₃ hc
  rw [← s.carrying_self i] at h₁ h₃
  obtain ⟨⟨hraw₁, hdvd⟩, hrun₁⟩ := run_opened h₁ hr₁
  obtain ⟨-, hrun₃⟩ := run_opened h₃ hr₃
  rw [openedFragments_joined hlen hraw hraw₁ hdvd, fragmentPaths_append] at hrun₃
  obtain rfl := ha.trans hrun₁
  obtain rfl := hc.trans hrun₃
  rw [State.carrying_dbi] at h₂
  obtain ⟨-, hrun₂⟩ := run_opened h₂ hr₂
  obtain rfl := hb.trans hrun₂
  refine ⟨?_, rfl, ?_, ?_⟩
  · simp only [outputs_carrying, List.map_append, List.flatMap_append]
  · simp only [State.carrying_dbi]
  · simp only [State.carrying_dbi]

end Sys2Proof.Machine
end

section
/-! SUPPORT. The words of a fragment (R357, R358): each pair from its own bytes. -/

namespace Sys2Proof.Machine

theorem length_unpackedPairs (w : Nat) : (bs : List Byte) → (unpackedPairs w bs).length = bs.length / 4
  | a :: b :: c :: d :: t => by
    have ih := length_unpackedPairs w t
    simp only [unpackedPairs, List.length_cons, ih]
    omega
  | [] | [_] | [_, _] | [_, _, _] => by simp [unpackedPairs]

theorem length_packedPairs : (bs : List Byte) → (packedPairs bs).length = bs.length / 3
  | a :: b :: c :: t => by
    have ih := length_packedPairs t
    simp only [packedPairs, List.length_cons, ih]
    omega
  | [] | [_] | [_, _] => by simp [packedPairs]

/-- Byte `k` of a buffer as a number. -/
def byteAt (bs : List Byte) (k : Nat) : Nat := (bs.getD k 0).toNat

/-- The words of unpacked pair `p` (R357). -/
theorem getElem?_unpackedPairs (w : Nat) : (bs : List Byte) → {p : Nat} → 4 * p + 3 < bs.length →
    (unpackedPairs w bs)[p]? = some ((byteAt bs (4 * p) + 256 * byteAt bs (4 * p + 1)) % 2 ^ w,
      (byteAt bs (4 * p + 2) + 256 * byteAt bs (4 * p + 3)) % 2 ^ w)
  | a :: b :: c :: d :: t, 0, _ => rfl
  | a :: b :: c :: d :: t, p + 1, h => getElem?_unpackedPairs w t (p := p) (by simp only [List.length_cons] at h; omega)

/-- The words of packed pair `p` (R358). -/
theorem getElem?_packedPairs : (bs : List Byte) → {p : Nat} → 3 * p + 2 < bs.length →
    (packedPairs bs)[p]? = some (byteAt bs (3 * p) + 256 * (byteAt bs (3 * p + 1) % 16),
      byteAt bs (3 * p + 1) / 16 + 16 * byteAt bs (3 * p + 2))
  | a :: b :: c :: t, 0, _ => rfl
  | a :: b :: c :: t, p + 1, h => getElem?_packedPairs t (p := p) (by simp only [List.length_cons] at h; omega)

theorem byteAt_take_drop (bs : List Byte) (m : Nat) {n k : Nat} (h : k < n) :
    byteAt ((bs.drop m).take n) k = byteAt bs (m + k) := by
  simp [byteAt, List.getD_eq_getElem?_getD, h]

/-- The device words of a run of bytes (R357, R358). -/
def devicePairs (P : Params) (packed : Bool) (bs : List Byte) : List (Nat × Nat) :=
  if packed then packedPairs bs else unpackedPairs P.sampleBits bs

/-- The device words of the pair whose bytes begin at `o` (R357, R358). -/
def deviceWords (P : Params) (packed : Bool) (bs : List Byte) (o : Nat) : Nat × Nat :=
  if packed then (byteAt bs o + 256 * (byteAt bs (o + 1) % 16), byteAt bs (o + 1) / 16 + 16 * byteAt bs (o + 2))
  else ((byteAt bs o + 256 * byteAt bs (o + 1)) % 2 ^ P.sampleBits,
    (byteAt bs (o + 2) + 256 * byteAt bs (o + 3)) % 2 ^ P.sampleBits)

section
variable (P : Params) {packed : Bool}

theorem length_devicePairs (bs : List Byte) : (devicePairs P packed bs).length = bs.length / pairStride packed := by
  cases packed
  · exact length_unpackedPairs ..
  · exact length_packedPairs ..

theorem getElem?_devicePairs (bs : List Byte) {p : Nat} (h : pairStride packed * (p + 1) ≤ bs.length) :
    (devicePairs P packed bs)[p]? = some (deviceWords P packed bs (pairStride packed * p)) := by
  cases packed
  · exact getElem?_unpackedPairs _ bs h
  · exact getElem?_packedPairs bs h

/-- A pair of a part of a buffer. -/
theorem deviceWords_take_drop (bs : List Byte) (m : Nat) {n o : Nat} (h : o + pairStride packed ≤ n) :
    deviceWords P packed ((bs.drop m).take n) o = deviceWords P packed bs (m + o) := by
  cases packed <;> simp only [pairStride, Bool.false_eq_true, if_true, if_false] at h
  · simp only [deviceWords, Bool.false_eq_true, if_false]
    rw [byteAt_take_drop _ _ (by omega), byteAt_take_drop _ _ (by omega), byteAt_take_drop _ _ (by omega),
      byteAt_take_drop _ _ (by omega)]
    rfl
  · simp only [deviceWords, if_true]
    rw [byteAt_take_drop _ _ (by omega), byteAt_take_drop _ _ (by omega), byteAt_take_drop _ _ (by omega)]
    rfl

variable {P} {raw : List Byte} {f : Nat}

theorem length_fragment (h : (f + 1) * fragmentBytes P packed ≤ raw.length) :
    ((raw.drop (f * fragmentBytes P packed)).take (fragmentBytes P packed)).length = fragmentBytes P packed := by
  rw [Nat.succ_mul] at h
  rw [List.length_take, List.length_drop]
  omega

/-- A fragment that the buffer holds has `FRAG_SIZE` pairs (R351). -/
theorem length_fragmentPairs (h : (f + 1) * fragmentBytes P packed ≤ raw.length) :
    (fragmentPairs P packed raw f).length = P.fragSize := by
  have hstride : 0 < pairStride packed := by cases packed <;> decide
  rw [fragmentPairs, ← devicePairs, ← fragmentBytes, List.length_map, length_devicePairs, length_fragment h]
  exact Nat.mul_div_cancel _ hstride

/-- Pair `p` of fragment `f`, scaled (R351, R357 to R359). -/
theorem getElem?_fragmentPairs (h : (f + 1) * fragmentBytes P packed ≤ raw.length) {p : Nat} (hp : p < P.fragSize) :
    (fragmentPairs P packed raw f)[p]? =
      let w := deviceWords P packed raw (f * fragmentBytes P packed + pairStride packed * p)
      some (scaleWord P.sampleBits w.1, scaleWord P.sampleBits w.2) := by
  have hpair : pairStride packed * (p + 1) ≤ fragmentBytes P packed :=
    (Nat.mul_le_mul_left _ hp).trans_eq (Nat.mul_comm ..)
  rw [fragmentPairs, ← devicePairs, ← fragmentBytes, List.getElem?_map,
    getElem?_devicePairs P _ (by rwa [length_fragment h]), deviceWords_take_drop P _ _ (o := pairStride packed * p) hpair]
  rfl

end

end Sys2Proof.Machine
end

section
/-! SUPPORT. `DBI.NEXT` in native mode (R361). -/

namespace Sys2Proof.Machine

/-- The response's timestamp words as numbers (R360). -/
theorem fragmentResponse_eq (P : Params) (ts : Stamp) (y : List Cplx) :
    fragmentResponse P ts y = responseWord .ok P.fragSize :: BitVec.ofNat 32 (ts.toNat % 2 ^ 32) ::
      BitVec.ofNat 32 (ts.toNat / 2 ^ 32) :: interleave y :=
  congrArg (responseWord .ok P.fragSize :: ·) (outWords_eq ⟨ts, y⟩)

/-- A legal open iterator's buffer holds the fragment at `POS` (R37). -/
theorem DbiOk.fragment_le {P : Params} {u : Dbi} {h : Hil} {d : Dcr} (hu : DbiOk P u h d) (ho : u.isOpen = true)
    (hp : u.pos < u.nfrag) : (u.pos + 1) * fragmentBytes P u.packed ≤ u.raw.length := by
  rw [DbiOk, if_pos ho] at hu
  obtain ⟨hraw, -⟩ := hu
  rw [hraw]
  exact Nat.mul_le_mul_right _ hp

/-- Settles O46: the outputs are the pairs of the fragment, each from its own bytes. -/
theorem iteratorNextNative : Obligations.IteratorNextNative := by
  intro s i hinv hi u ho hmode hp stride byte W
  have hfrag : (u.pos + 1) * fragmentBytes s.params u.packed ≤ u.raw.length := (hinv.dbi i).fragment_le ho hp
  refine ⟨fragmentPairs s.params u.packed u.raw u.pos, length_fragmentPairs hfrag, fun p hpair => ?_, ?_⟩
  · rw [getElem?_fragmentPairs hfrag hpair]
    dsimp only [stride, byte, W]
    cases u.packed
    · rfl
    · rfl
  · rw [exec_dbiNext_fragment hi ho hp, dbiAdvance_native hmode, ← fragmentResponse_eq]
    rfl

end Sys2Proof.Machine
end

section
/-! SUPPORT. `DBI.NEXT` in real-sampled mode (R362). -/

namespace Sys2Proof.Machine

/-- The DC stage is the recurrence of `DCR` over the samples in port order, or nothing (R362). -/
theorem dcStage_spec (dcen : Bool) (alpha avg : F32) (x : List Cplx) :
    let r := dcStage dcen alpha avg x
    if dcen then
      interleave r.1 = (dcrRun alpha avg (interleave x)).1 ∧ r.2 = (dcrRun alpha avg (interleave x)).2 ∧
        r.1.length = x.length
    else r.1 = x ∧ r.2 = avg := by
  cases dcen
  · exact ⟨rfl, rfl⟩
  · have heven : (dcrRun alpha avg (interleave x)).1.length % 2 = 0 := by
      rw [length_dcrRun, length_interleave, Nat.mul_mod_right]
    exact ⟨interleave_pairs _ heven, rfl, length_dcStage true alpha avg x⟩

/-- The residuals after a fragment, over the rails of the sign-alternated pairs (R79, R362). -/
theorem realPath_residuals (P : Params) (c : List F32) (dcen : Bool) (alpha avg : F32) (ri rq : List F32)
    (x : List Cplx) :
    let ab := signPairs false (dcStage dcen alpha avg x).1
    let r := realPath P c dcen alpha avg ri rq x
    r.2.1 = (ri ++ railI ab).drop x.length ∧ r.2.2.1 = (rq ++ railQ ab).drop x.length := by
  simp [realPath, nextResid, workBuf, length_dcStage]

/-- Settles O47: the DC stage, then the Hilbert transform of its samples read pair by pair over the sign-alternated
rails. -/
theorem iteratorNextReal : Obligations.IteratorNextReal := by
  intro s i hi u d c ho hmode hp x
  have hz : (dcStage u.dcen d.alpha d.avg x).1.length = x.length := length_dcStage ..
  have hab : (signPairs false (dcStage u.dcen d.alpha d.avg x).1).length = x.length := (length_signPairs ..).trans hz
  refine ⟨(dcStage u.dcen d.alpha d.avg x).1, (dcStage u.dcen d.alpha d.avg x).2,
    railI (signPairs false (dcStage u.dcen d.alpha d.avg x).1),
    railQ (signPairs false (dcStage u.dcen d.alpha d.avg x).1),
    (realPath s.params c u.dcen d.alpha d.avg u.residI u.residQ x).1, dcStage_spec .., (length_railI _).trans hab,
    (length_railQ _).trans hab, (length_hilRails ..).trans hab, fun p q hq => ?_,
    fun m hm => getElem?_hilRails _ _ _ _ _ (hab ▸ hm), ?_⟩
  · rw [getElem?_rails_signPairs false hq]
    simp
  · obtain ⟨hI, hQ⟩ := realPath_residuals s.params c u.dcen d.alpha d.avg u.residI u.residQ x
    rw [exec_dbiNext_fragment hi ho hp, dbiAdvance_real rfl rfl hmode, ← fragmentResponse_eq, ← hI, ← hQ]
    rfl

end Sys2Proof.Machine
end

section
/-! SUPPORT. What commands of a present unit refuse: the first failing check after the prologue decides (R140, R415). -/

namespace Sys2Proof.Machine

/-- A command of a present unit with another check failing raises what that check says. -/
theorem command_of_present_error {s t : State} {id : CmdId} {k : Kind} {i : Inst} {cs : List (Bool × Status)}
    {e : Status} (hi : i.toNat < s.params.nInst k) (h : firstError cs = some e) :
    s.command id (instCheck s k i :: cs) t = .next (s.raise e id) := by
  refine command_error ?_
  rw [firstError_instCheck, if_pos ((hasInst_iff s k i).mpr hi), h]

/-! The iterator's end (R360, R367, R369). -/

/-- An iterator that is not open reads 0 in every register (R24, R369). -/
theorem readDbi_closed {u : Dbi} (h : u.isOpen = false) {n : Nat} {v : Word} (hv : readDbi u n = some v) : v = 0#32 := by
  unfold readDbi Dbi.status at hv
  rw [h] at hv
  split at hv <;> cases hv <;> rfl

/-- Settles O48, by the checks of the three commands and by what a closed iterator reads. -/
theorem iteratorEndResidualsAndClear : Obligations.IteratorEndResidualsAndClear := by
  intro s i hi u
  have hclr : exec (.dbiClr i) s = .next { s with dbi := s.dbi.put i Dbi.reset, rsp := s.rsp ++ [[0x00000000]] } :=
    command_of_present hi firstError_nil
  refine ⟨fun ho hp => ?_, fun ho => ⟨?_, ?_⟩, fun ho => ?_, _, hclr, ?_⟩
  · exact command_of_present_error hi (by simp [u, ho, hp])
  · exact command_of_present_error hi (by simp [u, ho])
  · exact command_of_present_error hi (by simp [u, ho])
  · exact command_of_present hi (by simp [u, ho])
  · have hslot : (s.dbi.put i Dbi.reset).at i = Dbi.reset := Bank.at_put_self ..
    rw [hslot]
    exact ⟨rfl, rfl, fun n v hv => readDbi_closed (congrArg Dbi.isOpen hslot) hv⟩

/-! Construction of the filters (R403, R415). -/

/-- Any failing check of one status raises that status. -/
theorem firstError_of_status {cs : List (Bool × Status)} {e : Status} (h : ∀ c ∈ cs, c.2 = e)
    (hne : firstError cs ≠ none) : firstError cs = some e := by
  obtain ⟨e', he⟩ := Option.ne_none_iff_exists'.mp hne
  obtain ⟨c, hc, -, rfl⟩ := firstError_some he
  rw [he, h c hc]

theorem firLoadChecks_length {s : State} {c : List F32} (h : c.length % 2 = 0 ∨ s.params.maxTaps < c.length)
    (d : BitVec 10) : firstError (firLoadChecks s c d) = some .invalidFilterLength := by
  simp [firLoadChecks, h]

theorem firLoadChecks_zero {s : State} {c : List F32} (hodd : c.length % 2 = 1) (hmax : c.length ≤ s.params.maxTaps) :
    firstError (firLoadChecks s c 0) = some .invalidArgument := by
  have hlegal : ¬(c.length = 0 ∨ c.length % 2 = 0 ∨ s.params.maxTaps < c.length) := by omega
  simp only [firLoadChecks, firstError_cons, hlegal]
  rfl

theorem hbLoadChecks_fail {s : State} {c : List F32}
    (h : c.length < 3 ∨ s.params.maxTaps < c.length ∨ c.length % 4 ≠ 3 ∨ ¬HalfBandShape c) :
    firstError (hbLoadChecks s c) = some .invalidFilterLength := by
  refine firstError_of_status (by simp [hbLoadChecks]) fun hpass => ?_
  obtain ⟨⟨h3, hmax, hmod⟩, hshape⟩ := hbLoadChecks_pass.mp hpass
  rcases h with h | h | h | h
  · omega
  · omega
  · exact h hmod
  · exact h hshape

theorem hilLoadChecks_fail {c : List F32} (h : c.length ≠ 47 ∨ ¬HalfBandShape c) :
    firstError (hilLoadChecks c) = some .invalidFilterLength := by
  refine firstError_of_status (by simp [hilLoadChecks]) fun hpass => ?_
  obtain ⟨h47, hshape⟩ := hilLoadChecks_pass.mp hpass
  exact h.elim (· h47) (· hshape)

/-- Settles O32: each `LOAD` raises what the first failing check after the prologue says. -/
theorem filterLoadErrors : Obligations.FilterLoadErrors := by
  intro s i d c
  exact ⟨fun hi h => command_of_present_error hi (firLoadChecks_length h d),
    fun hi hodd hmax => command_of_present_error hi (firLoadChecks_zero hodd hmax),
    fun hi h => command_of_present_error hi (firLoadChecks_length h d),
    fun hi hodd hmax => command_of_present_error hi (firLoadChecks_zero hodd hmax),
    fun hi h => command_of_present_error hi (hbLoadChecks_fail h),
    fun hi h => command_of_present_error hi (hbLoadChecks_fail h),
    fun hi h => command_of_present_error hi (hilLoadChecks_fail h)⟩

/-! Processing (R402, R406, R415). -/

theorem procChecks_unconstructed {s : State} {constructed : Bool} (h : constructed = false) (n gran : Nat) :
    firstError (procChecks s constructed n gran) = some .notConstructed := by
  rw [h]
  rfl

theorem procChecks_block {s : State} {constructed : Bool} {n gran : Nat} (h : constructed = true)
    (hn : s.params.maxBlock < n ∨ n % gran ≠ 0) :
    firstError (procChecks s constructed n gran) = some .invalidBlockSize := by
  subst h
  refine firstError_of_status (cs := (procChecks s true n gran).tail) (by simp [procChecks]) fun hpass => ?_
  have hlegal : firstError (procChecks s true n gran) = none := hpass
  obtain ⟨-, hmax, hgran⟩ := procChecks_pass.mp hlegal
  rcases hn with hn | hn
  · omega
  · exact hn hgran

/-- Settles O38: construction, then the block; the mixer asks for itself first, then for its oscillator. -/
theorem procErrors : Obligations.ProcErrors := by
  intro s i verdict
  have unit {id : CmdId} {k : Kind} {constructed : Bool} {gran n : Nat} {t : State} (hi : i.toNat < s.params.nInst k) :
      verdict id constructed gran n (s.command id (instCheck s k i :: procChecks s constructed n gran) t) :=
    ⟨fun h => command_of_present_error hi (procChecks_unconstructed h n gran),
      fun h hn => command_of_present_error hi (procChecks_block h hn)⟩
  refine ⟨fun x => ⟨fun hi => unit hi, fun hi => unit hi, fun hi => unit hi⟩,
    fun x => ⟨fun hi => unit hi, fun hi => unit hi, fun hi => unit hi, fun hi => ⟨fun h => ?_, fun h hn => ?_⟩,
      fun hi => unit hi⟩, fun n hi => unit hi⟩
  · refine command_of_present_error hi ?_
    cases hm : (s.mix.at i).constructed
    · rfl
    · rw [hm, Bool.true_and] at h
      exact procChecks_unconstructed h ..
  · obtain ⟨hm, ho⟩ := Bool.and_eq_true_iff.mp h
    refine command_of_present_error hi ?_
    rw [hm]
    exact procChecks_block ho hn

end Sys2Proof.Machine
end

section
/-! SUPPORT. Who a command raises as (R401): every command raises under the identity its header gives, and what it answers
otherwise has status `OK`. -/

namespace Sys2Proof.Machine

/-- From `s` to `t` a response of status `OK` was emitted, or none. -/
def AnsweredOk (s t : State) : Prop := t.rsp = s.rsp ∨ ∃ n ws, t.rsp = s.rsp ++ [responseWord .ok n :: ws]

/-- A change of units, then an answer. -/
theorem AnsweredOk.answer {s t : State} (h : t.rsp = s.rsp) (n : Nat) (ws : List Word) : AnsweredOk s (t.answer n ws) :=
  .inr ⟨n, ws, congrArg (· ++ _) h⟩

/-- The outcome is an error under the identity of the header `h`, or an answer of status `OK`. -/
def RaisesAs (h : Word) (s : State) (o : Host.Outcome State Fault Refusal) : Prop :=
  ∀ t, o = .next t → (∃ e, t = s.raise e (headerId h)) ∨ AnsweredOk s t

section
variable {h : Word} {s t : State}

theorem RaisesAs.raise {e : Status} {id : CmdId} (hid : headerId h = id) : RaisesAs h s (.next (s.raise e id)) :=
  fun _ ht => .inl ⟨e, by rw [hid, Host.Outcome.next.inj ht]⟩

theorem RaisesAs.answered (ht : AnsweredOk s t) : RaisesAs h s (.next t) :=
  fun _ hu => .inr (Host.Outcome.next.inj hu ▸ ht)

theorem RaisesAs.command {id : CmdId} {cs : List (Bool × Status)} (hid : headerId h = id) (ht : AnsweredOk s t) :
    RaisesAs h s (s.command id cs t) := by
  intro u hu
  obtain ⟨-, rfl⟩ | ⟨e, -, rfl⟩ := command_cases hu
  · exact .inr ht
  · exact .inl ⟨e, by rw [hid]⟩

end

theorem copSubmitStep_answeredOk (s : State) (c : Inst) (b : Block) : AnsweredOk s (copSubmitStep s c b) := by
  obtain ⟨-, e⟩ | ⟨-, e⟩ := copSubmitStep_cases s c b
  · rw [e]
    split <;> exact .answer rfl _ _
  · rw [e]
    exact .answer rfl _ _

theorem dbiAdvance_answeredOk (s : State) (i : Inst) : AnsweredOk s (dbiAdvance s i) := by
  cases h : (s.dbi.at i).mode with
  | false =>
    rw [dbiAdvance_native h]
    exact .answer rfl _ _
  | true =>
    rw [dbiAdvance_real rfl rfl h]
    exact .inr ⟨_, _, rfl⟩

theorem execSysRdreg_raisesAs {h : Word} {i : Inst} (hid : headerId h = ⟨0, 1, i⟩) (rk : BitVec 4) (n : BitVec 8)
    (s : State) : RaisesAs h s (execSysRdreg i rk n s) := by
  obtain ⟨-, e⟩ | ⟨_, v, -, e⟩ := execSysRdreg_cases i rk n s
  · rw [e]
    exact .raise hid
  · rw [e]
    exact .answered (.answer rfl _ _)

theorem writeSys_raisesAs {h : Word} {id : CmdId} (hid : headerId h = id) (s : State) (n : Nat) (v : Word) :
    RaisesAs h s (writeSys s id n v) := by
  obtain e | ⟨-, e⟩ | ⟨_, _, -, -, e⟩ := writeSys_cases s id n v
  · rw [e]
    exact .raise hid
  · rw [e]
    exact .answered (.answer rfl _ _)
  · rw [e]
    exact .answered (.answer rfl _ _)

theorem writeCop_raisesAs {h : Word} {id : CmdId} (hid : headerId h = id) (s : State) (i : Inst) (n : Nat) (v : Word) :
    RaisesAs h s (writeCop s id i n v) := by
  obtain ⟨_, -, e⟩ | ⟨-, -, e⟩ | ⟨-, -, e⟩ := writeCop_cases s id i n v
  · rw [e]
    exact .raise hid
  · rw [e]
    exact .answered (.answer rfl _ _)
  · rw [e]
    exact .answered (.answer rfl _ _)

theorem execSysWrreg_raisesAs {h : Word} {i : Inst} (hid : headerId h = ⟨0, 2, i⟩) (rk : BitVec 4) (n : BitVec 8)
    (v : Word) (s : State) : RaisesAs h s (execSysWrreg i rk n v s) := by
  unfold execSysWrreg
  dsimp only
  split
  · exact .raise hid
  · exact writeSys_raisesAs hid s _ v
  · exact writeCop_raisesAs hid s i _ v
  · exact .raise hid

/-- Every command raises as its header says. -/
theorem exec_raisesAs (i : Instr) (s : State) : RaisesAs (encode i).header s (exec i s) :=
  match i with
  | .sysNop | .sysReset => .answered (.answer rfl _ _)
  | .sysRdreg _ rk n => execSysRdreg_raisesAs (headerId_mkHeader ..) rk n s
  | .sysWrreg _ rk n v => execSysWrreg_raisesAs (headerId_mkHeader ..) rk n v s
  | .dbiNext _ => .command (headerId_mkHeader ..) (dbiAdvance_answeredOk ..)
  | .copSubmit .. => .command (headerId_mkHeader ..) (copSubmitStep_answeredOk ..)
  | .copDrain .. => .command (headerId_mkHeader ..) (.inl (drainDequeue_begun ..).rsp)
  | .firrLoad .. | .firrProc .. | .firrClr _ | .fircLoad .. | .fircProc .. | .fircClr _ | .hbrLoad .. | .hbrProc ..
  | .hbrClr _ | .hbcLoad .. | .hbcProc .. | .hbcClr _ | .hilLoad .. | .hilProc .. | .hilClr _ | .dcrLoad ..
  | .dcrProc .. | .dcrClr _ | .ncoLoad .. | .ncoGen .. | .ncoClr _ | .mixLoad _ | .mixProc .. | .fmdLoad _
  | .fmdProc .. | .fmdClr _ | .dbiOpen .. | .dbiClr _ | .dbiResid _ | .copOpen .. | .copDetach _ =>
    .command (headerId_mkHeader ..) (.answer rfl _ _)

/-- Every packet raises as its header says; one that is no command raises. -/
theorem runPacket_raisesAs (s : State) (p : Packet) : RaisesAs p.header s (runPacket s p) := by
  unfold runPacket
  split
  next i hd =>
    obtain ⟨-, rfl⟩ := decode_eq_ok_iff.mp hd
    exact exec_raisesAs i s
  next r hr =>
    obtain rfl | rfl := decode_error hr
    · exact .raise rfl
    · exact .raise rfl

/-- Settles O12: a response of non-zero status is no answer, so the packet raised, under its header's fields. -/
theorem raiseChangesNothingElse : Obligations.RaiseChangesNothingElse := by
  intro s t p w ws h hrsp hw
  obtain ⟨e, rfl⟩ | hsame | ⟨n, vs, hok⟩ := runPacket_raisesAs s p t h
  · obtain ⟨rfl, rfl⟩ : responseWord e 0 = w ∧ [] = ws := by simpa using hrsp
    have hcode : e.code ≤ 7 := by cases e <;> decide
    rw [statusByte_responseWord] at hw ⊢
    exact ⟨rfl, responseWord_no_info e, Nat.one_le_iff_ne_zero.mpr hw, hcode, rfl⟩
  · simp [hrsp] at hsame
  · obtain ⟨rfl, -⟩ : w = responseWord .ok n ∧ ws = vs := by simpa [hrsp] using hok
    exact absurd (statusByte_responseWord .ok n) hw

end Sys2Proof.Machine
end

section
/-! SUPPORT. Device words (R357 to R359): rounding a number that 24 bits hold, so that scaling a word is exact; and the
bytes of a pair in both layouts. -/

namespace Sys2Proof.Machine

/-! Exact results. -/

theorem roundEven_mul_two_pow (n d : Nat) : roundEven (n * 2 ^ d) d = n :=
  le_antisymm (roundEven_le le_rfl) (le_roundEven le_rfl)

theorem lastPlace_le {m n d k : Nat} (hm : m = n * 2 ^ d) (hn : n < 2 ^ 24) (hk : k ≤ d) : lastPlace m k ≤ d - k := by
  by_cases h0 : m = 0
  · rw [lastPlace, h0, Nat.log2_zero]
    omega
  · have hlt : m < 2 ^ (24 + d) := by
      rw [hm, pow_add]
      exact Nat.mul_lt_mul_of_pos_right hn (by positivity)
    have := (Nat.log2_lt h0).mpr hlt
    rw [lastPlace]
    omega

/-- A number of 24 bits times a power of two is rounded to itself (R9). -/
theorem magVal_roundMag_exact {m n d k : Nat} (hm : m = n * 2 ^ d) (hn : n < 2 ^ 24) (hk : k ≤ d)
    (h : roundMag m k < 0x7F800000) : magVal (roundMag m k) * 2 ^ k = m := by
  have hq := lastPlace_le hm hn hk
  have hmul : m = n * 2 ^ (d - (k + lastPlace m k)) * 2 ^ (k + lastPlace m k) := by
    rw [Nat.mul_assoc, ← pow_add, Nat.sub_add_cancel (by omega), hm]
  have hround : roundEven m (k + lastPlace m k) = n * 2 ^ (d - (k + lastPlace m k)) :=
    (congrArg (roundEven · (k + lastPlace m k)) hmul).trans (roundEven_mul_two_pow ..)
  rw [magVal_roundMag h, hround, Nat.mul_assoc, ← pow_add, Nat.add_comm _ k, ← hmul]

/-- It stays far below the overflow midpoint. -/
theorem roundMag_lt_inf {m n d k : Nat} (hm : m = n * 2 ^ d) (hn : n < 2 ^ 24) (hd : d ≤ 252 + k) :
    roundMag m k < 0x7F800000 := by
  by_contra hinf
  have hle := (roundMag_eq_inf_iff m k).mp (Nat.le_of_not_lt hinf)
  have hlt : m < 2 ^ 24 * 2 ^ (252 + k) := by
    calc m < 2 ^ 24 * 2 ^ d := hm ▸ Nat.mul_lt_mul_of_pos_right hn (by positivity)
      _ ≤ 2 ^ 24 * 2 ^ (252 + k) := Nat.mul_le_mul_left _ (Nat.pow_le_pow_right (by decide) hd)
  rw [overflow_midpoint, Nat.mul_assoc, ← pow_add] at hle
  omega

/-- A magnitude of 24 bits times a power of two, with its sign (R9). -/
theorem signed_roundMag_exact {m n d k : Nat} (neg : Bool) (hm : m = n * 2 ^ d) (hn : n < 2 ^ 24) (hk : k ≤ d)
    (hd : d ≤ 252 + k) :
    isFinite (signed neg (roundMag m k)) = true ∧
      units (signed neg (roundMag m k)) * 2 ^ k = if neg then -(m : Int) else m := by
  have hinf := roundMag_lt_inf hm hn hd
  have hmag : (magVal (roundMag m k) : Int) * 2 ^ k = m := mod_cast magVal_roundMag_exact hm hn hk hinf
  refine ⟨isFinite_signed hinf, ?_⟩
  rw [units_signed hinf]
  cases neg
  · simp [hmag]
  · simp [hmag]

/-! Scaling. -/

/-- An integer of 24 bits is converted exactly (R11). -/
theorem i2f_exact {z : Int} (hz : z.natAbs < 2 ^ 24) : isFinite (i2f z) = true ∧ units (i2f z) = z * 2 ^ 149 := by
  obtain ⟨hfin, hunits⟩ := signed_roundMag_exact (decide (z < 0)) rfl hz (Nat.zero_le 149) (by decide)
  refine ⟨hfin, ?_⟩
  rw [pow_zero, mul_one] at hunits
  rw [i2f, hunits, Nat.cast_mul, Nat.cast_pow, Nat.cast_ofNat]
  by_cases hneg : z < 0
  · have habs : -(z.natAbs : Int) = z := by omega
    rw [if_pos (decide_eq_true hneg), ← neg_mul, habs]
  · have habs : (z.natAbs : Int) = z := by omega
    rw [if_neg (mt of_decide_eq_true hneg), habs]

/-- The constant 2^-`e` (R11). -/
theorem pow2neg_exact {e : Nat} (he : e ≤ 126) : isFinite (pow2neg e) = true ∧ units (pow2neg e) = 2 ^ (149 - e) := by
  have hbits : pow2neg e = signed false ((126 - e) * 2 ^ 23 + 2 ^ 23) := by
    rw [pow2neg, signed, ← Nat.succ_mul, Nat.succ_eq_add_one, ← Nat.sub_add_comm he]
    simp
  have hinf : (126 - e) * 2 ^ 23 + 2 ^ 23 < 0x7F800000 := by omega
  rw [hbits, units_signed hinf, magVal_scaled (.inr le_rfl) (by decide), ← pow_add, ← Nat.add_sub_assoc he]
  exact ⟨isFinite_signed hinf, by simp⟩

/-- A product of 24 bits is exact (R9). -/
theorem fmul_exact {a b : F32} {n d : Nat} (ha : isFinite a = true) (hb : isFinite b = true)
    (hm : (units a * units b).natAbs = n * 2 ^ d) (hn : n < 2 ^ 24) (hk : 149 ≤ d) (hd : d ≤ 401) :
    isFinite (fmul a b) = true ∧ units (fmul a b) * 2 ^ 149 = units a * units b := by
  rw [fmul_of_isFinite ha hb]
  obtain ⟨hfin, hunits⟩ := signed_roundMag_exact (signBit a != signBit b) hm hn hk hd
  exact ⟨hfin, hunits.trans (units_mul_eq_signed ha hb).symm⟩

/-- A device word is scaled exactly (R359). -/
theorem scaleWord_exact {w u : Nat} (hw : w ≤ 16) (hu : u < 2 ^ w) :
    isFinite (scaleWord w u) = true ∧
      units (scaleWord w u) * 2 ^ (w - 1) = ((u : Int) - 2 ^ (w - 1)) * 2 ^ 149 := by
  have hmax : u < 2 ^ 16 := hu.trans_le (Nat.pow_le_pow_right (by decide) hw)
  have hmid : 2 ^ (w - 1) ≤ 2 ^ 15 := Nat.pow_le_pow_right (by decide) (by omega)
  have hz : ((u : Int) - 2 ^ (w - 1)).natAbs < 2 ^ 24 := by
    rw [← Nat.cast_two, ← Nat.cast_pow]
    generalize 2 ^ (w - 1) = mid at *
    omega
  rw [scaleWord]
  obtain ⟨hfin, hunits⟩ := i2f_exact hz
  obtain ⟨hfin', hunits'⟩ := pow2neg_exact (e := w - 1) (by omega)
  generalize (u : Int) - 2 ^ (w - 1) = z at *
  have hprod : (units (i2f z) * units (pow2neg (w - 1))).natAbs = z.natAbs * 2 ^ (149 + (149 - (w - 1))) := by
    rw [hunits, hunits', mul_assoc, ← pow_add, Int.natAbs_mul, Int.natAbs_pow]
    rfl
  obtain ⟨hr, hexact⟩ := fmul_exact hfin hfin' hprod hz (by omega) (by omega)
  refine ⟨hr, mul_right_cancel₀ (pow_ne_zero 149 two_ne_zero) ?_⟩
  calc units (fmul (i2f z) (pow2neg (w - 1))) * 2 ^ (w - 1) * 2 ^ 149
      = z * 2 ^ 149 * 2 ^ (149 - (w - 1)) * 2 ^ (w - 1) := by rw [mul_right_comm, hexact, hunits, hunits']
    _ = z * 2 ^ 149 * 2 ^ 149 := by rw [mul_assoc _ (2 ^ (149 - (w - 1))), ← pow_add, Nat.sub_add_cancel (by omega)]

/-! Layouts. -/

/-- A packed pair gives its words (R358). -/
theorem packedPairs_bytes {u v : Nat} (hu : u < 2 ^ 12) (hv : v < 2 ^ 12) (bs : List Byte) :
    packedPairs ([BitVec.ofNat 8 u, BitVec.ofNat 8 (u / 256 + 16 * (v % 16)), BitVec.ofNat 8 (v / 16)] ++ bs) =
      (u, v) :: packedPairs bs := by
  refine congrArg (· :: packedPairs bs) (Prod.ext ?_ ?_)
  · simp only [BitVec.toNat_ofNat]
    omega
  · simp only [BitVec.toNat_ofNat]
    omega

/-- An unpacked pair of 12-bit words gives its words, whatever the high bits (R357). -/
theorem unpackedPairs_bytes {u v : Nat} (hu : u < 2 ^ 12) (hv : v < 2 ^ 12) (g h : Nat) (bs : List Byte) :
    unpackedPairs 12 ([BitVec.ofNat 8 u, BitVec.ofNat 8 (u / 256 + 16 * g), BitVec.ofNat 8 v,
      BitVec.ofNat 8 (v / 256 + 16 * h)] ++ bs) = (u, v) :: unpackedPairs 12 bs := by
  refine congrArg (· :: unpackedPairs 12 bs) (Prod.ext ?_ ?_)
  · simp only [BitVec.toNat_ofNat]
    omega
  · simp only [BitVec.toNat_ofNat]
    omega

/-- Settles O29: scaling is exact, and by induction over the pairs both layouts give their words. -/
theorem deviceWordsDecodeExactly : Obligations.DeviceWordsDecodeExactly := by
  refine ⟨fun w u _ hw hu => scaleWord_exact hw hu, fun us hus => ?_⟩
  induction us with
  | nil => exact ⟨rfl, fun _ => rfl⟩
  | cons u us ih =>
    obtain ⟨⟨hu, hv⟩, hus⟩ := List.forall_mem_cons.mp hus
    obtain ⟨hpacked, hunpacked⟩ := ih hus
    refine ⟨?_, fun hi => ?_⟩
    · rw [List.flatMap_cons, packedPairs_bytes hu hv, hpacked]
    · rw [List.flatMap_cons, unpackedPairs_bytes hu hv, hunpacked]

end Sys2Proof.Machine
end
